-- ==== Sys2Proof/Word.lean ====
section
/-! DEFINITION. Widths of the words the GFP moves (R12, R61, R86) and the names of its three agents (R17, R87). -/

namespace Sys2Proof

/-- The unit of all data: "The unit of all data is the byte of 8 bits." (R61) -/
abbrev Byte := BitVec 8

/-- A byte string: a finite sequence of bytes, index 0 the earliest received (R14). -/
abbrev ByteString := List Byte

/-- A word on the P port: the field pair op, data of R88 (R101, R102). -/
abbrev PortWord := BitVec 10

/-- An event word: the fields agent, op, data of R86. -/
abbrev EventWord := BitVec 12

/-- The three agents that execute steps (R17); R87 gives their field values 0, 1, 2. -/
inductive Agent where
  /-- P, the producer. -/
  | p
  /-- D, the decode task. -/
  | d
  /-- K, the consumer. -/
  | k
deriving DecidableEq, Repr, Inhabited

end Sys2Proof
end

