-- ==== Sys2Proof/Syntax.lean ====
section
/-! DEFINITION. The eleven operations, one constructor per row of `spec/opcode_table.json` (R91, R197). -/

namespace Sys2Proof

/-- The operations of the GFP. "The only operand any operation has is the `data` byte of a data-byte word" (R88), and
only `B.OTHER` leaves it open. -/
inductive Instr where
  /-- `B.START`, the data byte 0x24 (R122). -/
  | bStart
  /-- `B.STAR`, the data byte 0x2A (R123). -/
  | bStar
  /-- `B.OTHER`, any other data byte (R124). -/
  | bOther (b : Byte)
  /-- `SOC`, start of chunk (R180). -/
  | soc
  /-- `EOC`, end of chunk (R181). -/
  | eoc
  /-- `ABORT`, end of chunk with a byte-source fault (R182). -/
  | abort
  /-- `CLOSE` (R183). -/
  | close
  /-- `DPOP`, receive and decode (R184). -/
  | dpop
  /-- `DPUSH`, deliver (R185). -/
  | dpush
  /-- `DCLOSE`, close the output and terminate (R186). -/
  | dclose
  /-- `TAKE`, read one Sentence or end of stream (R187). -/
  | take
deriving DecidableEq, Repr

end Sys2Proof
end

