-- ==== Sys2Proof/WellFormed.lean ====
section
/-! DEFINITION. Which terms of `Instr` are operations: the byte of `B.OTHER` is "any value but 0x24 and 0x2A"
(`spec/opcode_table.json`, the row's `except`; R82, R91). -/

namespace Sys2Proof

/-- An operation with an operand its encoding admits. -/
def Instr.wf : Instr → Bool
  | .bStart => true
  | .bStar => true
  | .bOther b => b != 0x24#8 && b != 0x2A#8
  | .soc => true
  | .eoc => true
  | .abort => true
  | .close => true
  | .dpop => true
  | .dpush => true
  | .dclose => true
  | .take => true

end Sys2Proof
end

