-- ==== Sys2Proof/Decode.lean ====
section
/-! DEFINITION. Event words: the decoder, total on every 12-bit word and rejecting by name (R86 to R92, R101), and
after it the encoder, from the same table (R91). -/

namespace Sys2Proof

/-! ## Byte classes -/

/-- `'$'`, the start marker (R81). -/
def dollarByte : Byte := 0x24#8

/-- `'*'`, the checksum-start marker (R81). -/
def starByte : Byte := 0x2A#8

/-- `','`, the field separator (R81). -/
def commaByte : Byte := 0x2C#8

/-- The three classes of R82. -/
inductive ByteClass where
  | start
  | star
  | other
deriving DecidableEq, Repr

/-- "Every data byte belongs to exactly one of three classes, decided by its value alone" (R82). -/
def classOf (b : Byte) : ByteClass :=
  if b = dollarByte then .start else if b = starByte then .star else .other

/-- The data-byte operation of a byte: R88, and the assembler's choice for `B` in R99. -/
def Instr.ofByte (b : Byte) : Instr :=
  match classOf b with
  | .start => .bStart
  | .star => .bStar
  | .other => .bOther b

/-! ## The decoder -/

/-- What a word spells (R92). -/
inductive Decoded where
  /-- one of the eleven operations -/
  | instr (i : Instr)
  /-- a P-format word that R88 does not list: "raises `Fatal(IllegalWord)`, code 6" (R92 a) -/
  | illegalPortWord
  /-- a D- or K-format word that R89 and R90 do not list, or agent field 0b11: "spells no operation" (R92 b) -/
  | noOperation
deriving DecidableEq, Repr

/-- `agent[11:10]` (R86). -/
def agentField (w : EventWord) : BitVec 2 := w.extractLsb' 10 2

/-- The low ten bits, the word that travels on the P port when the agent field is 0b00 (R86). -/
def portField (w : EventWord) : PortWord := w.extractLsb' 0 10

/-- `op[9:8]` (R86). -/
def opField (w : PortWord) : BitVec 2 := w.extractLsb' 8 2

/-- `data[7:0]` (R86). -/
def dataField (w : PortWord) : Byte := w.extractLsb' 0 8

/-- P-format words (R88); every other one is illegal (R92 a). -/
def decodeP (w : PortWord) : Decoded :=
  if opField w = 0b00#2 then .instr (Instr.ofByte (dataField w))
  else if opField w = 0b01#2 then
    if dataField w = 0x00#8 then .instr .soc else .illegalPortWord
  else if opField w = 0b10#2 then
    if dataField w = 0x00#8 then .instr .eoc
    else if dataField w = 0x01#8 then .instr .abort
    else .illegalPortWord
  else
    if dataField w = 0x00#8 then .instr .close else .illegalPortWord

/-- D-format words (R89). -/
def decodeD (w : PortWord) : Decoded :=
  if opField w = 0b00#2 then
    if dataField w = 0x00#8 then .instr .dpop
    else if dataField w = 0x01#8 then .instr .dpush
    else if dataField w = 0x02#8 then .instr .dclose
    else .noOperation
  else .noOperation

/-- K-format words (R90). -/
def decodeK (w : PortWord) : Decoded :=
  if opField w = 0b00#2 then
    if dataField w = 0x00#8 then .instr .take else .noOperation
  else .noOperation

/-- "It reads `agent`, then `op`, then `data`" (R101); agent 0b11 is reserved (R87). -/
def decode (w : EventWord) : Decoded :=
  if agentField w = 0b00#2 then decodeP (portField w)
  else if agentField w = 0b01#2 then decodeD (portField w)
  else if agentField w = 0b10#2 then decodeK (portField w)
  else .noOperation

/-! ## The encoder -/

/-- The agent whose step an operation is (R88, R89, R90, R223). -/
def Instr.agent : Instr → Agent
  | .bStart => .p
  | .bStar => .p
  | .bOther _ => .p
  | .soc => .p
  | .eoc => .p
  | .abort => .p
  | .close => .p
  | .dpop => .d
  | .dpush => .d
  | .dclose => .d
  | .take => .k

/-- The agent field of an agent (R87). -/
def Agent.code : Agent → BitVec 2
  | .p => 0b00#2
  | .d => 0b01#2
  | .k => 0b10#2

/-- The concatenation agent, op, data of R86. -/
def eventWord (agent : BitVec 2) (low : PortWord) : EventWord := agent ++ low

/-- The op and data fields of an operation: the columns "op" and "data" of the table of R91. -/
def encodeLow : Instr → PortWord
  | .bStart => 0b00#2 ++ 0x24#8
  | .bStar => 0b00#2 ++ 0x2A#8
  | .bOther b => 0b00#2 ++ b
  | .soc => 0b01#2 ++ 0x00#8
  | .eoc => 0b10#2 ++ 0x00#8
  | .abort => 0b10#2 ++ 0x01#8
  | .close => 0b11#2 ++ 0x00#8
  | .dpop => 0b00#2 ++ 0x00#8
  | .dpush => 0b00#2 ++ 0x01#8
  | .dclose => 0b00#2 ++ 0x02#8
  | .take => 0b00#2 ++ 0x00#8

/-- The event word of an operation (R91). -/
def encode (i : Instr) : EventWord := eventWord i.agent.code (encodeLow i)

/-- The `mask` of an operation's row of `spec/opcode_table.json`. -/
def Instr.tableMask : Instr → EventWord
  | .bStart => 0xFFF#12
  | .bStar => 0xFFF#12
  | .bOther _ => 0xF00#12
  | .soc => 0xFFF#12
  | .eoc => 0xFFF#12
  | .abort => 0xFFF#12
  | .close => 0xFFF#12
  | .dpop => 0xFFF#12
  | .dpush => 0xFFF#12
  | .dclose => 0xFFF#12
  | .take => 0xFFF#12

/-- The `match` of an operation's row of `spec/opcode_table.json`. -/
def Instr.tableMatch : Instr → EventWord
  | .bStart => 0x024#12
  | .bStar => 0x02A#12
  | .bOther _ => 0x000#12
  | .soc => 0x100#12
  | .eoc => 0x200#12
  | .abort => 0x201#12
  | .close => 0x300#12
  | .dpop => 0x400#12
  | .dpush => 0x401#12
  | .dclose => 0x402#12
  | .take => 0x800#12

/-! ## Words as the opcode table numbers them -/

/-- The event word whose bits are the low `nbits` bits of `w`, if those bits fit the 12 bits every event word has
(R101). -/
def tableWord (nbits w : Nat) : Option EventWord :=
  if w % 2 ^ nbits < 2 ^ 12 then some (BitVec.ofNat 12 (w % 2 ^ nbits)) else none

/-- What the decoder reads from an instruction whose bits are `w`, numbered as `spec/opcode_table.json` numbers
them. -/
def decodeTableWord (nbits w : Nat) : Option Instr :=
  match tableWord nbits w with
  | none => none
  | some e =>
    match decode e with
    | .instr i => some i
    | .illegalPortWord => none
    | .noOperation => none

end Sys2Proof
end

