-- ==== Sys2Proof/Config.lean ====
section
/-! DEFINITION. The six static parameters of R6 to R11, and the one free value of the model: which agent
steps next where no turn has been laid down (R18, `93_implementation_defined.md` U13). -/

namespace Sys2Proof

/-- "a natural number at least 0, or the symbol `inf`" (R10, R11). -/
inductive Limit where
  | fin (n : Nat)
  | inf
deriving DecidableEq, Repr

/-- The implementation parameters of `00_scope.md` section 3. "They are fixed at build time. No operation
reads or writes them": no step writes them. The model takes them as an argument by holding one `Params` beside the
registers (`State.params`, log entry 1). -/
structure Params where
  /-- `QCAP_RAW` (R6). -/
  qcapRaw : Nat
  /-- `QCAP_OUT` (R7). -/
  qcapOut : Nat
  /-- `CHUNK_RESET` (R8). -/
  chunkReset : Bool
  /-- `RX_UPCASE` (R9). -/
  rxUpcase : Bool
  /-- `PAYLOAD_MAX` (R10). -/
  payloadMax : Limit
  /-- `COUNT_W` (R11). -/
  countW : Limit
deriving DecidableEq, Repr

/-- The reference values: the table "Parameters at a glance" of `92_eei_decisions.md` (R6 to R11). -/
def Params.reference : Params :=
  { qcapRaw := 100, qcapOut := 100, chunkReset := true, rxUpcase := false, payloadMax := .inf, countW := .inf }

/-- The ranges R6, R7 and R11 give: both capacities and `COUNT_W` are "at least 1". -/
def Params.wf (p : Params) : Bool :=
  decide (1 ≤ p.qcapRaw) && decide (1 ≤ p.qcapOut) &&
    match p.countW with
    | .fin w => decide (1 ≤ w)
    | .inf => true

/-- FREE VALUE (log entry 3): the agent that takes the `n`-th turn when no turn has been laid down. "the source fixes
no schedule between agents" (R18), so nothing constrains it. -/
opaque Config.freeAgent : Nat → Agent

end Sys2Proof
end

