-- ==== Sys2Proof/Machine/State.lean ====
section
/-! DEFINITION. The state of the GFP: the twelve registers of R30 to R41 as plain data, and beside them what the model
itself must hold (the parameters of R6 to R11, the outputs of the step just taken, the words waiting at the P port and
the turns laid down for the agents). Then the reset state of R54. -/

namespace Sys2Proof.Machine

/-- The three parser states (R30). The value 3 of the two-bit code "is never written and is not a state". -/
inductive ParserState where
  | idle
  | capturing
  | awaitingChecksum
deriving DecidableEq, Repr

/-- The fatal codes of R216, `noFault` the code 0 (`None`). Codes 8 to 15 are "never written". -/
inductive FaultCode where
  | noFault
  | postCloseSubmit
  | nestedSubmit
  | outsideSubmission
  | closeDuringSubmit
  | doubleClose
  | illegalWord
  | pushClosed
deriving DecidableEq, Repr

/-- The Sentence record (R96): `Valid`, `Kind`, `Data`. -/
structure Sentence where
  valid : Bool
  kind : ByteString
  data : List ByteString
deriving DecidableEq, Repr

/-- What a step shows outside: the outcomes of R19 and R99 with the results of R95 and R98. "Results are outputs, not
state" (R56); the model keeps those of the step just taken in `State.out` (log entry 2). -/
inductive StepOut where
  /-- the turn tried no operation (the producer presents no word), or no step has been taken yet -/
  | idle
  /-- the step was taken and returns nothing -/
  | done
  /-- `(count, err)` of `EOC` and `ABORT` (R95) -/
  | result (count : Nat) (err : Bool)
  /-- `sentence(s)` of `TAKE` (R98) -/
  | sentence (x : Sentence)
  /-- `EOS` of `TAKE` (R98) -/
  | eos
  /-- the step is not enabled (R15, R19) -/
  | hold
  /-- the step raised a fatal fault (R219) -/
  | fatal (c : FaultCode)
deriving DecidableEq, Repr

/-- Whose step is tried next. A turn of D or K carries the op and data fields of the event word that names the step
(R86, R89, R90); a turn of P tries the word the producer presents. -/
inductive Turn where
  | p
  | d (low : PortWord)
  | k (low : PortWord)
  /-- a word with the reserved agent field 0b11 (R87) -/
  | reserved (low : PortWord)
deriving DecidableEq, Repr

/-- Reasons for which the machine stops with a fault: none. A fatal fault of the GFP is a value of its register
`fault` and a next state (R219), a step that is not enabled is a next state in which nothing changed (R19); so no
meaning and no step raises a `Fault`, and the type has no constructor (safe: nothing stops early). -/
inductive Fault where
deriving DecidableEq, Repr

/-- Reasons for which a step is refused. -/
inductive Refusal where
  /-- an operation without a meaning in `exec` (safe). No arm of `exec` answers with it. -/
  | notModelled (mnemonic : String)
  /-- the turn names no operation: "a decoder of traces refuses them as \"spells no operation\" and the machine has no
  step for them" (R92 b, `93_implementation_defined.md` U9). Raised by `step` alone (safe). -/
  | spellsNoOperation (w : EventWord)
deriving DecidableEq, Repr

/-- "The whole state of GFP is the twelve registers of rules R30 to R41" (`10_state.md`), then the model's own five
fields. -/
structure State where
  /-- `st` (R30). -/
  st : ParserState
  /-- `pay` (R31). -/
  pay : ByteString
  /-- `xacc` (R32). -/
  xacc : Byte
  /-- `dbuf` (R33): a byte string of length 0 or 1 between steps. -/
  dbuf : Option Byte
  /-- `vcnt` (R34), `COUNT_W` bits, kept as the number it holds. -/
  vcnt : Nat
  /-- `sub_open` (R35). -/
  subOpen : Bool
  /-- `rawq` (R36). -/
  rawq : List ByteString
  /-- `rawq_closed` (R37). -/
  rawqClosed : Bool
  /-- `dec_hold` (R38). -/
  decHold : Option Sentence
  /-- `outq` (R39). -/
  outq : List Sentence
  /-- `outq_closed` (R40). -/
  outqClosed : Bool
  /-- `fault` (R41). -/
  fault : FaultCode
  /-- the six static parameters (R6 to R11), which no step writes (log entry 1) -/
  params : Params
  /-- the outputs of the step just taken (R56; log entry 2) -/
  out : StepOut
  /-- the words the producer presents on the P port, the one now presented first (R20, R102; log entry 3) -/
  pport : List PortWord
  /-- the turns laid down, the next one first (R18; log entry 3) -/
  sched : List Turn
  /-- how many turns have passed; the argument of the free value `Config.freeAgent` (R18; log entry 3) -/
  turns : Nat
deriving DecidableEq, Repr

/-- Creation of a pipeline with the parameters `p`: the table of R54. The model's own fields: nothing returned, no
word presented, no turn laid down, no turn passed (log entries 2 and 3). -/
def State.create (p : Params) : State :=
  { st := .idle, pay := [], xacc := 0x00#8, dbuf := none, vcnt := 0, subOpen := false, rawq := [], rawqClosed := false,
    decHold := none, outq := [], outqClosed := false, fault := .noFault,
    params := p, out := .idle, pport := [], sched := [], turns := 0 }

/-- The machine right after reset, of the reference design (R54, R240; log entry 1). -/
def State.reset : State := State.create Params.reference

end Sys2Proof.Machine
end

