-- ==== Sys2Proof/Machine/Ops.lean ====
section
/-! DEFINITION. The operations every meaning is made of: the three outcomes of a step (R19), raising a fatal fault
(R219), the two resets of the parser (R121, R130), and the machine's side of a turn (which word is tried, when the
P-port word is consumed). -/

namespace Sys2Proof.Machine

/-- What a meaning answers. -/
abbrev Res := Host.Outcome State Fault Refusal

/-! ## The outcomes of a step -/

/-- The step was taken and shows `o` (R19 `next`; R56). -/
def returned (o : StepOut) (s : State) : Res := .next { s with out := o }

/-- The step was taken and returns nothing. -/
def accepted (s : State) : Res := returned .done s

/-- `hold`: "nothing is written, the port word is not consumed, and the agent waits" (R15, R19). -/
def held (s : State) : Res := returned .hold s

/-- `raise Fatal(code)`: "`fault <- code`, and nothing else is written" (R219). There is no return from it (R220). -/
def raiseFatal (c : FaultCode) (s : State) : Res := returned (.fatal c) { s with fault := c }

/-- "All steps need `fault = 0`" (R191): with a fatal fault standing "no agent has any enabled step" (R219). -/
def live (s : State) (r : Res) : Res := if s.fault = .noFault then r else held s

/-- The state after an answer, for the definitions that follow a run: the next state, or the state before where the
answer gives none. -/
def after (r : Res) (s : State) : State :=
  match r with
  | .next t => t
  | .fault _ => s
  | .refused _ => s

/-! ## Resets of the parser -/

/-- `RESET_ACC` (R121). -/
def resetAcc (s : State) : State := { s with pay := [], xacc := 0x00#8, dbuf := none }

/-- `FORCE_IDLE` (R130). -/
def forceIdle (s : State) : State := { s with st := .idle, pay := [], xacc := 0x00#8, dbuf := none }

/-- "if CHUNK_RESET: FORCE_IDLE", at both ends of a submission (R180, R181, R182). -/
def chunkEnd (s : State) : State := if s.params.chunkReset then forceIdle s else s

/-! ## Turns -/

/-- The label of the one step agent D's loop can take now (R190). -/
def ownLabel (s : State) : PortWord :=
  if s.decHold.isSome then encodeLow .dpush
  else if s.rawq.isEmpty then encodeLow .dclose
  else encodeLow .dpop

/-- A turn that nobody laid down: "any agent that has an enabled step may take it" (R18). -/
def freeTurn (s : State) : Turn :=
  match Config.freeAgent s.turns with
  | .p => .p
  | .d => .d (ownLabel s)
  | .k => .k (encodeLow .take)

/-- The turn that comes next. -/
def nextTurn (s : State) : Turn :=
  match s.sched with
  | t :: _ => t
  | [] => freeTurn s

/-- The event word the next turn tries (R86); none where it is P's turn and the producer presents no word. -/
def fetchWord (s : State) : Option EventWord :=
  match nextTurn s with
  | .p =>
    match s.pport with
    | w :: _ => some (eventWord 0b00#2 w)
    | [] => none
  | .d low => some (eventWord 0b01#2 low)
  | .k low => some (eventWord 0b10#2 low)
  | .reserved low => some (eventWord 0b11#2 low)

/-- The next turn is used up. -/
def takeTurn (s : State) : State := { s with sched := s.sched.tail, turns := s.turns + 1 }

/-- A turn of P with no word presented: no step (R102, `p_valid = 0`). -/
def idleTurn (s : State) : Res := returned .idle (takeTurn s)

/-- The presented word leaves the P port unless its step was held (R15, R19, R219). -/
def consumeWord (w : EventWord) (t : State) : State :=
  if agentField w = 0b00#2 ∧ t.out ≠ .hold then { t with pport := t.pport.tail } else t

/-- What a turn makes of the answer of the operation it tried. -/
def settle (w : EventWord) (r : Res) : Res :=
  match r with
  | .next t => .next (consumeWord w t)
  | .fault e => .fault e
  | .refused e => .refused e

/-- A reserved P-port word: "it is a contract violation and raises `Fatal(IllegalWord)`, code 6" (R92 a). -/
def illegalWord (s : State) : Res := live s (raiseFatal .illegalWord s)

/-- `s` with one event word put where the next turn tries it: a P-format word is presented first on the P port and the
next turn is P's; any other word is the label of the next turn. A word of more than 12 bits spells nothing (R101), as
a word with the reserved agent field does. -/
def placeWord (w : Option EventWord) (s : State) : State :=
  match w with
  | none => { s with sched := .reserved 0#10 :: s.sched }
  | some e =>
    if agentField e = 0b00#2 then { s with pport := portField e :: s.pport, sched := .p :: s.sched }
    else if agentField e = 0b01#2 then { s with sched := .d (portField e) :: s.sched }
    else if agentField e = 0b10#2 then { s with sched := .k (portField e) :: s.sched }
    else { s with sched := .reserved (portField e) :: s.sched }

end Sys2Proof.Machine
end

