-- ==== Sys2Proof/Machine/Flags.lean ====
section
/-! DEFINITION. The derived flags of R42 and the small conditions the operations test. -/

namespace Sys2Proof.Machine

/-- The two-bit code of `st` (R30): `Idle = 0`, `Capturing = 1`, `AwaitingChecksum = 2`. -/
def parserCode (x : ParserState) : BitVec 2 :=
  match x with
  | .idle => 0#2
  | .capturing => 1#2
  | .awaitingChecksum => 2#2

/-- The four-bit value held in `fault` and shown on `fatal_code` (R41, R216). -/
def faultCode (c : FaultCode) : BitVec 4 :=
  match c with
  | .noFault => 0#4
  | .postCloseSubmit => 1#4
  | .nestedSubmit => 2#4
  | .outsideSubmission => 3#4
  | .closeDuringSubmit => 4#4
  | .doubleClose => 5#4
  | .illegalWord => 6#4
  | .pushClosed => 7#4

/-- `raw_full` (R42). -/
def rawFull (s : State) : Bool := decide (s.rawq.length = s.params.qcapRaw)

/-- `raw_empty` (R42). -/
def rawEmpty (s : State) : Bool := s.rawq.isEmpty

/-- `out_full` (R42). -/
def outFull (s : State) : Bool := decide (s.outq.length = s.params.qcapOut)

/-- `out_empty` (R42). -/
def outEmpty (s : State) : Bool := s.outq.isEmpty

/-- The flag `fault != 0` (R42). -/
def isFatal (s : State) : Bool := decide (s.fault ≠ .noFault)

/-- `dcnt`, a name for `len(dbuf)` (R33). -/
def dcnt (s : State) : Nat :=
  match s.dbuf with
  | none => 0
  | some _ => 1

/-- `n` is below the bound: `n < PAYLOAD_MAX`, "always so when `PAYLOAD_MAX = inf`" (R125). -/
def belowLimit (l : Limit) (n : Nat) : Bool :=
  match l with
  | .fin m => decide (n < m)
  | .inf => true

/-- `len(pay) < PAYLOAD_MAX` (R125). -/
def payHasRoom (s : State) : Bool := belowLimit s.params.payloadMax s.pay.length

/-- `(n + 1) mod 2^COUNT_W`; "no wrap when `COUNT_W = inf`" (R119, R129). -/
def countUp (p : Params) (n : Nat) : Nat :=
  match p.countW with
  | .fin w => (n + 1) % 2 ^ w
  | .inf => n + 1

end Sys2Proof.Machine
end

