-- ==== Sys2Proof/Machine/Queue.lean ====
section
/-! DEFINITION. HQ, the handshake queue: the three actions of `43_handshake_queue.md` (R161 to R163) on the content
and the closed bit of a queue. -/

namespace Sys2Proof.Machine

/-- The cases of `PUSH` (R161). -/
inductive PushResult (α : Type) where
  /-- case 1, `raise Fatal(PushClosed)` -/
  | closed
  /-- case 2, `hold` -/
  | full
  /-- case 3, what the push leaves -/
  | pushed (x : α)
deriving DecidableEq, Repr

/-- `PUSH(Q, e)`: closed is tested before full (R161; `90_conflicts.md` C10). -/
def push {α : Type} (cap : Nat) (closed : Bool) (q : List α) (e : α) : PushResult (List α) :=
  if closed then .closed else if q.length = cap then .full else .pushed (q ++ [e])

/-- The cases of `POP` (R162). -/
inductive PopResult (α : Type) where
  /-- case 1: the head, and what is left -/
  | entry (e : α) (rest : List α)
  /-- case 2 -/
  | drained
  /-- case 3 -/
  | hold
deriving DecidableEq, Repr

/-- `POP(Q)`: case 1 "does not look at `closed(Q)`" (R162). -/
def pop {α : Type} (closed : Bool) (q : List α) : PopResult α :=
  match q with
  | e :: rest => .entry e rest
  | [] => if closed then .drained else .hold

/-- `CLOSEQ(RAWQ)` (R163). -/
def closeRawq (s : State) : State := { s with rawqClosed := true }

/-- `CLOSEQ(OUTQ)` (R163). -/
def closeOutq (s : State) : State := { s with outqClosed := true }

end Sys2Proof.Machine
end

