-- ==== Sys2Proof/Machine/Consumer.lean ====
section
/-! DEFINITION. The operation of agent K, the consumer (R187). -/

namespace Sys2Proof.Machine

/-- `TAKE` (R187): `POP(OUTQ)` with `drained` reported as `EOS` (R167). -/
def execTake (s : State) : Res :=
  live s
    (match pop s.outqClosed s.outq with
     | .entry x rest => returned (.sentence x) { s with outq := rest }
     | .drained => returned .eos s
     | .hold => held s)

end Sys2Proof.Machine
end

