-- ==== Sys2Proof/Machine/Sentences.lean ====
section
/-! DEFINITION. SDC, the sentence decoder: `SPLIT` and `DEC` of `42_sentence_decoder.md` (R150, R151). -/

namespace Sys2Proof.Machine

/-- `SPLIT(p)` (R150): every comma separates, empty fields are kept, the empty string gives one empty field. -/
def split : ByteString → List ByteString
  | [] => [[]]
  | b :: r =>
    if b = commaByte then [] :: split r
    else
      match split r with
      | [] => [[b]]
      | f :: fs => (b :: f) :: fs

/-- `Data[0]`, the header field (R152). -/
def headerOf (data : List ByteString) : ByteString :=
  match data with
  | [] => []
  | f :: _ => f

/-- `Data[0][2..4]` (R151, R154). -/
def kindOf (header : ByteString) : ByteString := (header.drop 2).take 3

/-- `DEC(p)` (R151). -/
def dec (p : ByteString) : Sentence :=
  if (headerOf (split p)).length = 5 then { valid := true, kind := kindOf (headerOf (split p)), data := split p }
  else { valid := false, kind := [], data := split p }

end Sys2Proof.Machine
end

