-- ==== Sys2Proof/Machine/DecodeTask.lean ====
section
/-! DEFINITION. The three operations of agent D, the decode task (R184 to R186). -/

namespace Sys2Proof.Machine

/-- `DPOP` (R184): enabled exactly when nothing is held and RAWQ has an entry. -/
def execDpop (s : State) : Res :=
  live s
    (match s.decHold with
     | some _ => held s
     | none =>
       match pop s.rawqClosed s.rawq with
       | .entry e rest => accepted { s with decHold := some (dec e), rawq := rest }
       | .drained => held s
       | .hold => held s)

/-- `DPUSH` (R185): enabled exactly when a Sentence is held and `len(outq) < QCAP_OUT`. Agent D can raise nothing
(R215), so a closed OUTQ, which no run shows beside a held Sentence, is not tested (log entry 6). -/
def execDpush (s : State) : Res :=
  live s
    (match s.decHold with
     | none => held s
     | some x =>
       if s.outq.length < s.params.qcapOut then accepted { s with outq := s.outq ++ [x], decHold := none } else held s)

/-- `DCLOSE` (R186): "the `drained` result of `POP(RAWQ)` followed by `CLOSEQ(OUTQ)`" (R167), nothing held, OUTQ
open. -/
def execDclose (s : State) : Res :=
  live s
    (match s.decHold with
     | some _ => held s
     | none =>
       if s.outqClosed then held s
       else
         match pop s.rawqClosed s.rawq with
         | .entry _ _ => held s
         | .drained => accepted (closeOutq s)
         | .hold => held s)

end Sys2Proof.Machine
end

