-- ==== Sys2Proof/Machine/Checksum.lean ====
section
/-! DEFINITION. XCV, the XOR checksum validator: the functions of `40_checksum.md` (R110 to R116) and the digit
characters of R83. -/

namespace Sys2Proof.Machine

/-- `HEXUP(n)` (R83). -/
def hexUp (n : BitVec 4) : Byte :=
  if n.toNat ≤ 9 then BitVec.ofNat 8 (0x30 + n.toNat) else BitVec.ofNat 8 (0x41 + (n.toNat - 10))

/-- `HEXLO(n)` (R83). -/
def hexLo (n : BitVec 4) : Byte :=
  if n.toNat ≤ 9 then BitVec.ofNat 8 (0x30 + n.toNat) else BitVec.ofNat 8 (0x61 + (n.toNat - 10))

/-- `x[7:4]` (R13). -/
def hiNibble (x : Byte) : BitVec 4 := x.extractLsb' 4 4

/-- `x[3:0]` (R13). -/
def loNibble (x : Byte) : BitVec 4 := x.extractLsb' 0 4

/-- `XSTEP(x, b)` (R110). -/
def xstep (x b : Byte) : Byte := x ^^^ b

/-- `XOF(s)` (R112), the loop of R111. -/
def xof (s : ByteString) : Byte := s.foldl xstep 0x00#8

/-- The upper-case rendering of R111 and R113: "the high nibble is the left, first character" (R63). -/
def render (x : Byte) : ByteString := [hexUp (hiNibble x), hexUp (loNibble x)]

/-- The lower-case rendering of R113, which the hardware never stores. -/
def renderLower (x : Byte) : ByteString := [hexLo (hiNibble x), hexLo (loNibble x)]

/-- `CHK(s)` (R111). -/
def chk (s : ByteString) : ByteString := render (xof s)

/-- `MATCH(x, c0, c1)` (R114). -/
def matchDigits (x c0 c1 : Byte) : Bool := decide (c0 = hexUp (hiNibble x) ∧ c1 = hexUp (loNibble x))

/-- `up(b)` (R115). -/
def up (b : Byte) : Byte := if 0x61#8 ≤ b ∧ b ≤ 0x66#8 then b - 0x20#8 else b

/-- `VERDICT(x, c0, c1)` (R116). -/
def verdict (p : Params) (x c0 c1 : Byte) : Bool :=
  if p.rxUpcase then matchDigits x (up c0) (up c1) else matchDigits x c0 c1

end Sys2Proof.Machine
end

