-- ==== Sys2Proof/Machine/Operands.lean ====
section
/-! DEFINITION. The one operand form of the GFP, the data byte, and what the parser does with it: the gate of R120 and
the micro-operations `APPEND`, `DIGIT`, `JUDGE` and `EMIT` of `41_frame_detector.md` (R125 to R129). -/

namespace Sys2Proof.Machine

/-- The gate of the operations that need an open submission: "First, if `sub_open` is false, the byte is outside any
submission: `raise Fatal(OutsideSubmission)`" (R120; R181 and R182 case 1). -/
def inSubmission (s : State) (r : Res) : Res :=
  live s (if s.subOpen then r else raiseFatal .outsideSubmission s)

/-- `APPEND(b)` (R125), with the overflow case of R127. -/
def appendByte (b : Byte) (s : State) : State :=
  if payHasRoom s then { s with pay := s.pay ++ [b], xacc := xstep s.xacc b } else forceIdle s

/-- `EMIT` (R129): `PUSH(RAWQ, pay)` together with the count (R167). -/
def emit (s : State) : PushResult State :=
  match push s.params.qcapRaw s.rawqClosed s.rawq s.pay with
  | .closed => .closed
  | .full => .full
  | .pushed q => .pushed { s with rawq := q, vcnt := countUp s.params s.vcnt }

/-- `JUDGE(c0, c1)` (R128). -/
def judge (c0 c1 : Byte) (s : State) : Res :=
  if verdict s.params s.xacc c0 c1 then
    match emit s with
    | .closed => raiseFatal .pushClosed s
    | .full => held s
    | .pushed t => accepted (forceIdle t)
  else accepted (forceIdle s)

/-- `DIGIT(b)` (R126). -/
def digit (b : Byte) (s : State) : Res :=
  match s.dbuf with
  | none => accepted { s with dbuf := some b }
  | some c0 => judge c0 b s

end Sys2Proof.Machine
end

