-- ==== Sys2Proof/Machine/Detector.lean ====
section
/-! DEFINITION. FBD, the frame-boundary detector: the meanings of the three data-byte operations (R122 to R124). -/

namespace Sys2Proof.Machine

/-- `B.START` (R122), the same in all three parser states. -/
def execBStart (s : State) : Res := inSubmission s (accepted { resetAcc s with st := .capturing })

/-- `B.STAR` (R123). -/
def execBStar (s : State) : Res :=
  inSubmission s
    (match s.st with
     | .idle => accepted s
     | .capturing => accepted { s with st := .awaitingChecksum }
     | .awaitingChecksum => digit starByte s)

/-- `B.OTHER` (R124). -/
def execBOther (b : Byte) (s : State) : Res :=
  inSubmission s
    (match s.st with
     | .idle => accepted s
     | .capturing => accepted (appendByte b s)
     | .awaitingChecksum => digit b s)

end Sys2Proof.Machine
end

