-- ==== Sys2Proof/Machine/Producer.lean ====
section
/-! DEFINITION. The operations of agent P that open and end submissions and close the pipeline (R180 to R183). The
tests stand in the order of R218. -/

namespace Sys2Proof.Machine

/-- `SOC` (R180). -/
def execSoc (s : State) : Res :=
  live s
    (if s.rawqClosed then raiseFatal .postCloseSubmit s
     else if s.subOpen then raiseFatal .nestedSubmit s
     else accepted (chunkEnd { s with subOpen := true, vcnt := 0 }))

/-- `EOC` (R181): `err = 0`. -/
def execEoc (s : State) : Res :=
  inSubmission s (returned (.result s.vcnt false) (chunkEnd { s with subOpen := false }))

/-- `ABORT` (R182): `err = 1`, `ByteSourceFault`. -/
def execAbort (s : State) : Res :=
  inSubmission s (returned (.result s.vcnt true) (chunkEnd { s with subOpen := false }))

/-- `CLOSE` (R183). -/
def execClose (s : State) : Res :=
  live s
    (if s.subOpen then raiseFatal .closeDuringSubmit s
     else if s.rawqClosed then raiseFatal .doubleClose s
     else accepted (closeRawq s))

end Sys2Proof.Machine
end

