-- ==== Sys2Proof/Machine/Dispatch.lean ====
section
/-! DEFINITION. The dispatch from an operation to its meaning, one arm per constructor. -/

namespace Sys2Proof.Machine

def exec (i : Instr) (s : State) : Host.Outcome State Fault Refusal :=
  match i with
  | .bStart => Sys2Proof.Machine.execBStart s
  | .bStar => Sys2Proof.Machine.execBStar s
  | .bOther b => Sys2Proof.Machine.execBOther b s
  | .soc => Sys2Proof.Machine.execSoc s
  | .eoc => Sys2Proof.Machine.execEoc s
  | .abort => Sys2Proof.Machine.execAbort s
  | .close => Sys2Proof.Machine.execClose s
  | .dpop => Sys2Proof.Machine.execDpop s
  | .dpush => Sys2Proof.Machine.execDpush s
  | .dclose => Sys2Proof.Machine.execDclose s
  | .take => Sys2Proof.Machine.execTake s

end Sys2Proof.Machine
end

