-- ==== Sys2Proof/Machine/Step.lean ====
section
/-! DEFINITION. One step: the next turn tries its event word (R18, R86). -/

namespace Sys2Proof.Machine

/-- The next turn: its word is decoded and its operation executed; a reserved P-port word is fatal, any other word that
spells no operation is refused (R92); a turn of P with no word presented does nothing. -/
def step (s : State) : Host.Outcome State Fault Refusal :=
  match fetchWord s with
  | none => idleTurn s
  | some w =>
    match decode w with
    | .instr i => settle w (exec i (takeTurn s))
    | .illegalPortWord => settle w (illegalWord (takeTurn s))
    | .noOperation => .refused (.spellsNoOperation w)

/-- `s` with one event word where the next step tries it (log entry 4). -/
def State.withFetchWord (s : State) (nbits w : Nat) : State := placeWord (tableWord nbits w) s

end Sys2Proof.Machine
end

