-- ==== Sys2Proof/Machine/Ports.lean ====
section
/-! DEFINITION. The signals of the two ports (R102) and of the queues' sides (R171), read off a state: before a step
for the ready and valid lines, after it for the result lines. "They are descriptive: no rule's semantics is stated in
terms of them" (`92_eei_decisions.md` D3). -/

namespace Sys2Proof.Machine

/-! ## P port -/

/-- `p_valid`: the producer presents a word. P acts on its turns alone (R18), so the line is read as 1 on a turn of P with a
word waiting (log entry 14). -/
def pValid (s : State) : Bool := decide (nextTurn s = .p) && !s.pport.isEmpty

/-- `p_word`, the word presented (R102). -/
def pWord (s : State) : Option PortWord := s.pport.head?

/-- `b` is the second checksum byte of a matching frame (R128, R191): P then has an entry for RAWQ. -/
def completesFrame (s : State) (b : Byte) : Bool :=
  match s.st with
  | .idle => false
  | .capturing => false
  | .awaitingChecksum =>
    match s.dbuf with
    | none => false
    | some c0 => s.subOpen && verdict s.params s.xacc c0 b

/-- The one condition under which P is held: the second checksum byte of a matching frame while RAWQ is full (R189,
R191); a closed RAWQ is tested first (R129). -/
def holdsByte (s : State) (b : Byte) : Bool := completesFrame s b && !s.rawqClosed && rawFull s

/-- The word is a data byte of class OTHER (R82, R88), the only kind that can complete a frame (R123). -/
def carriesOther (w : PortWord) : Bool := decide (opField w = 0b00#2 ∧ classOf (dataField w) = .other)

/-- `p_ready` for the presented word: 0 is the hold (R102), and a standing fatal fault accepts nothing (R219). -/
def pReady (s : State) (w : PortWord) : Bool :=
  !isFatal s && !(carriesOther w && holdsByte s (dataField w))

/-- `r_count` and `r_err` of the step just taken, present exactly when `r_valid` is 1 (R102). -/
def rPair (t : State) : Option (Nat × Bool) :=
  match t.out with
  | .result n e => some (n, e)
  | .idle => none
  | .done => none
  | .sentence _ => none
  | .eos => none
  | .hold => none
  | .fatal _ => none

/-- `r_valid` (R102). -/
def rValid (t : State) : Bool := (rPair t).isSome

/-! ## K port -/

/-- `k_take`: the consumer asks, which it does on its turns (log entry 14). -/
def kTake (s : State) : Bool := decide (nextTurn s = .k (encodeLow .take))

/-- `k_valid`, "1 when OUTQ is not empty" (R102). -/
def kValid (s : State) : Bool := !outEmpty s

/-- `k_eos`, "1 when OUTQ is empty and closed" (R102). -/
def kEos (s : State) : Bool := outEmpty s && s.outqClosed

/-- `k_sentence`, "the record of rule R96 at the head of OUTQ" (R102). -/
def kSentence (s : State) : Option Sentence := s.outq.head?

/-! ## Fatal -/

/-- `fatal` (R102). -/
def fatalLine (s : State) : Bool := isFatal s

/-- `fatal_code` (R102). -/
def fatalCode (s : State) : BitVec 4 := faultCode s.fault

/-! ## The sides of a queue

The lines of R171. `push_ready`, `pop_valid` and `pop_drained` are the queue's and are the same for both queues; `push_valid`
and `pop_ready` are the agent's beside it, and an agent that a standing fatal fault has stopped (R219) offers and wants
nothing (log entry 14). -/

/-- `push_ready`, "queue not full and not closed" (R171). -/
def pushReady {α : Type} (cap : Nat) (closed : Bool) (q : List α) : Bool := decide (q.length ≠ cap) && !closed

/-- `pop_valid`, "queue not empty" (R171). -/
def popValid {α : Type} (q : List α) : Bool := !q.isEmpty

/-- `pop_drained`, "queue empty and closed" (R171). -/
def popDrained {α : Type} (closed : Bool) (q : List α) : Bool := q.isEmpty && closed

/-- `push_ready` of RAWQ. -/
def rawPushReady (s : State) : Bool := pushReady s.params.qcapRaw s.rawqClosed s.rawq

/-- `push_ready` of OUTQ. -/
def outPushReady (s : State) : Bool := pushReady s.params.qcapOut s.outqClosed s.outq

/-- `push_valid` of RAWQ, "producer has an entry": P's word `w` completes a matching frame. -/
def rawPushValid (s : State) (w : PortWord) : Bool := !isFatal s && carriesOther w && completesFrame s (dataField w)

/-- `pop_ready` of RAWQ, "consumer wants an entry": D holds no Sentence (R184). -/
def rawPopReady (s : State) : Bool := !isFatal s && s.decHold.isNone

/-- `push_valid` of OUTQ: D holds a Sentence (R185). -/
def outPushValid (s : State) : Bool := !isFatal s && s.decHold.isSome

/-- `pop_ready` of OUTQ: "on the K port the pop side of OUTQ is the port itself" (R171), so it is `k_take`. -/
def outPopReady (s : State) : Bool := kTake s

end Sys2Proof.Machine
end

