-- ==== Sys2Proof/Machine/Trace.lean ====
section
/-! DEFINITION. Runs as sequences of operations, what they show and push, and the trace lines and pseudo-operations of
R99 and R100. -/

namespace Sys2Proof.Machine

/-! ## Sequences of operations -/

/-- The state after one operation has been tried. -/
def doOp (i : Instr) (s : State) : State := after (exec i s) s

/-- The state after the operations have been tried in order: "A run is a sequence of steps" (R18). -/
def runOps : List Instr → State → State
  | [], s => s
  | i :: is, s => runOps is (doOp i s)

/-- What the tried operations show, in order. -/
def outsOf : List Instr → State → List StepOut
  | [], _ => []
  | i :: is, s => (doOp i s).out :: outsOf is (doOp i s)

/-- The Sentence an outcome delivers to K. -/
def sentenceOf (o : StepOut) : Option Sentence :=
  match o with
  | .sentence x => some x
  | .idle => none
  | .done => none
  | .result _ _ => none
  | .eos => none
  | .hold => none
  | .fatal _ => none

/-- The count an outcome returns to P. -/
def countOf (o : StepOut) : Option Nat :=
  match o with
  | .result n _ => some n
  | .idle => none
  | .done => none
  | .sentence _ => none
  | .eos => none
  | .hold => none
  | .fatal _ => none

/-- The Sentences K receives from the tried operations, in order. -/
def deliveredBy (is : List Instr) (s : State) : List Sentence := (outsOf is s).filterMap sentenceOf

/-- The counts returned by the `EOC` and `ABORT` steps among the tried operations, in order. -/
def countsOf (is : List Instr) (s : State) : List Nat := (outsOf is s).filterMap countOf

/-- The payload one tried operation puts into RAWQ, read off RAWQ itself. -/
def emittedBy (i : Instr) (s : State) : List ByteString := (doOp i s).rawq.drop s.rawq.length

/-- The payloads the tried operations put into RAWQ, in order. -/
def emittedIn : List Instr → State → List ByteString
  | [], _ => []
  | i :: is, s => emittedBy i s ++ emittedIn is (doOp i s)

/-! ## Pseudo-operations (R100) -/

/-- One `B` per byte, in order. -/
def dataOps (bytes : ByteString) : List Instr := bytes.map Instr.ofByte

/-- `SUBMIT`: `SOC`, the bytes, `EOC`. -/
def submit (bytes : ByteString) : List Instr := .soc :: (dataOps bytes ++ [.eoc])

/-- `SUBMITX`: "the same with `ABORT` in place of `EOC`". -/
def submitX (bytes : ByteString) : List Instr := .soc :: (dataOps bytes ++ [.abort])

/-- `FRAME`: `'$'`, the payload, `'*'`, the two characters of its checksum. -/
def frame (p : ByteString) : ByteString := dollarByte :: (p ++ starByte :: chk p)

/-- `PUMP`. -/
def pump : List Instr := [.dpop, .dpush]

/-- `SHUTDOWN`. -/
def shutdown : List Instr := [.close, .dclose]

/-! ## Reset during a run -/

/-- Reset, at any moment: "a new pipeline is created" (R242); it loses everything (R241) but the parameters, which "are not
state and are not changed by reset". No word and no agent's step performs it (log entry 15). -/
def recreate (s : State) : State := State.create s.params

/-! ## Trace lines (R99) -/

/-- One line of a trace: the operation, and the outcome written after `->` where the line has one. -/
structure TraceLine where
  op : Instr
  expect : Option StepOut
deriving DecidableEq, Repr

/-- The line's operation, tried in `s`, shows what the line expects. R99 does not say what a line without `-> result` claims;
such a line is accepted with any outcome, a hold and a fatal fault included (DESIGN CHOICE, log entry 24). -/
def lineHolds (l : TraceLine) (s : State) : Bool :=
  match l.expect with
  | none => true
  | some o => decide ((doOp l.op s).out = o)

/-- Every line of the trace shows what it expects, tried in order from `s`. -/
def traceHolds : List TraceLine → State → Bool
  | [], _ => true
  | l :: ls, s => lineHolds l s && traceHolds ls (doOp l.op s)

end Sys2Proof.Machine
end

