-- ==== Sys2Proof/Safety.lean ====
section
/-! DEFINITION. What claims about the GFP are stated in: the invariants of R48 to R53, the phases and the end of a run
(R192), what is in flight (R194), the enabledness table (R191), and the occurrences of R133. -/

namespace Sys2Proof.Machine

/-! ## Byte strings -/

/-- A byte that is neither `'$'` nor `'*'` (class OTHER, R82). -/
def plainByte (b : Byte) : Bool := b != dollarByte && b != starByte

/-- "a byte string `p` with no `'$'` and no `'*'` in it" (R52). -/
def markerFree (p : ByteString) : Bool := p.all plainByte

/-- `n <= PAYLOAD_MAX` (R10, R31). -/
def withinLimit (l : Limit) (n : Nat) : Bool :=
  match l with
  | .fin m => decide (n ≤ m)
  | .inf => true

/-- The fields with one `','` between neighbours (R150). -/
def joinFields : List ByteString → ByteString
  | [] => []
  | [f] => f
  | f :: g :: fs => f ++ commaByte :: joinFields (g :: fs)

/-! ## Invariants of the state -/

/-- R48: "`st = Idle` implies `pay = []` and `xacc = 0x00` and `dbuf = []`". -/
def idleClear (s : State) : Prop := s.st = .idle → s.pay = [] ∧ s.xacc = 0x00#8 ∧ s.dbuf = none

/-- R49: "`xacc` equals the exclusive-or of all bytes of `pay`", "and no byte of `pay` is `'$'` or `'*'`". -/
def accumulatorMatches (s : State) : Prop := s.xacc = xof s.pay ∧ markerFree s.pay = true

/-- R50; that `len(dbuf)` is at most 1 is in the type of `dbuf`. -/
def digitsPlaced (s : State) : Prop := s.st = .capturing → s.dbuf = none

/-- R51: "If `CHUNK_RESET` is true then `sub_open = false` implies `st = Idle`". -/
def idleBetweenChunks (s : State) : Prop := s.params.chunkReset = true → s.subOpen = false → s.st = .idle

/-- R52, the capacities. -/
def withinCapacity (s : State) : Prop := s.rawq.length ≤ s.params.qcapRaw ∧ s.outq.length ≤ s.params.qcapOut

/-- A payload as RAWQ holds it: free of markers (R52) and "Its length is 0 to `PAYLOAD_MAX`" (R97). -/
def payloadOk (p : Params) (e : ByteString) : Prop := markerFree e = true ∧ withinLimit p.payloadMax e.length = true

/-- R31, R52: the payload gathered is within its bound, every entry of `rawq` is a payload, and every Sentence held or
in `outq` is `DEC(p)` for a payload `p`. -/
def contentsSound (s : State) : Prop :=
  withinLimit s.params.payloadMax s.pay.length = true ∧
  (∀ e ∈ s.rawq, payloadOk s.params e) ∧
  (∀ x, s.decHold = some x → ∃ e, x = dec e ∧ payloadOk s.params e) ∧
  (∀ x ∈ s.outq, ∃ e, x = dec e ∧ payloadOk s.params e)

/-- R53: "`outq_closed` implies `rawq_closed` and `rawq = []` and `dec_hold = none`; `rawq_closed` implies
`sub_open = false` unless `fault != 0`". -/
def closureOrdered (s : State) : Prop :=
  (s.outqClosed = true → s.rawqClosed = true ∧ s.rawq = [] ∧ s.decHold = none) ∧
  (s.rawqClosed = true → s.subOpen = false ∨ s.fault ≠ .noFault)

/-- The bits of `vcnt`: a number below `2^COUNT_W` (R34). -/
def countFits (s : State) : Prop :=
  match s.params.countW with
  | .fin w => s.vcnt < 2 ^ w
  | .inf => True

/-- The invariants of `10_state.md` section 6 together. -/
def Invariants (s : State) : Prop :=
  idleClear s ∧ accumulatorMatches s ∧ digitsPlaced s ∧ idleBetweenChunks s ∧ withinCapacity s ∧ contentsSound s ∧
    closureOrdered s ∧ countFits s

/-! ## Lifecycle -/

/-- The phases of R192. -/
inductive Phase where
  | opened
  | closing
  | flushing
  | done
  | fatal
deriving DecidableEq, Repr

/-- The phase of a state (R192). In states outside R53, which no run reaches, R192 names no phase, and the answer is the
model's choice (DESIGN CHOICE, log entry 23): `opened` by `rawq_closed = 0` alone, `done` wherever OUTQ is closed and
empty, also beside a RAWQ entry, a held Sentence or an open submission, where `isDone` is false. -/
def phaseOf (s : State) : Phase :=
  if s.fault ≠ .noFault then .fatal
  else if s.rawqClosed = false then .opened
  else if s.outqClosed = false then .closing
  else if s.outq.isEmpty = false then .flushing
  else .done

/-- "The phases are passed in this order" (R192). -/
def Phase.rank : Phase → Nat
  | .opened => 0
  | .closing => 1
  | .flushing => 2
  | .done => 3
  | .fatal => 4

/-- `Done`: "A run is over exactly when the state is `Done`" (R192, R23), all seven conditions of R192. The end of a run is
this, not `phaseOf` (log entry 23). -/
def isDone (s : State) : Bool :=
  s.rawqClosed && s.rawq.isEmpty && s.decHold.isNone && s.outqClosed && s.outq.isEmpty && !s.subOpen &&
    decide (s.fault = .noFault)

/-- What is in flight, oldest first, each payload of RAWQ as the Sentence it will become (R194). -/
def inFlight (s : State) : List Sentence := s.outq ++ s.decHold.toList ++ s.rawq.map dec

/-- How many of D's and K's steps a closed pipeline still has before it: three for a payload in RAWQ, two for a held
Sentence, one for a Sentence in OUTQ, one to close OUTQ. -/
def drainLeft (s : State) : Nat :=
  3 * s.rawq.length + 2 * s.decHold.toList.length + s.outq.length + (if s.outqClosed then 0 else 1)

/-- The count of the open submission: `vcnt` while one is open, else nothing counted. -/
def openCount (s : State) : Nat := if s.subOpen then s.vcnt else 0

/-! ## Enabledness -/

/-- The fatal outcomes in the "otherwise" column of R191, in the order of R218. -/
def fatalFor (i : Instr) (s : State) : Option FaultCode :=
  match i with
  | .bStart => if s.subOpen then none else some .outsideSubmission
  | .bStar => if s.subOpen then none else some .outsideSubmission
  | .bOther _ => if s.subOpen then none else some .outsideSubmission
  | .soc => if s.rawqClosed then some .postCloseSubmit else if s.subOpen then some .nestedSubmit else none
  | .eoc => if s.subOpen then none else some .outsideSubmission
  | .abort => if s.subOpen then none else some .outsideSubmission
  | .close => if s.subOpen then some .closeDuringSubmit else if s.rawqClosed then some .doubleClose else none
  | .dpop => none
  | .dpush => none
  | .dclose => none
  | .take => none

/-- The "enabled when" column of R191. -/
def enabledIn (i : Instr) (s : State) : Bool :=
  match i with
  | .bStart => s.subOpen
  | .bStar => s.subOpen
  | .bOther b => s.subOpen && !holdsByte s b
  | .soc => !s.rawqClosed && !s.subOpen
  | .eoc => s.subOpen
  | .abort => s.subOpen
  | .close => !s.subOpen && !s.rawqClosed
  | .dpop => s.decHold.isNone && !s.rawq.isEmpty
  | .dpush => s.decHold.isSome && decide (s.outq.length < s.params.qcapOut)
  | .dclose => s.rawqClosed && s.rawq.isEmpty && s.decHold.isNone && !s.outqClosed
  | .take => !s.outq.isEmpty || s.outqClosed

/-- The outcome is a step taken: neither held nor fatal (R19 `next`). -/
def taken (o : StepOut) : Bool :=
  match o with
  | .done => true
  | .result _ _ => true
  | .sentence _ => true
  | .eos => true
  | .idle => false
  | .hold => false
  | .fatal _ => false

/-! ## What a chunk yields -/

/-- "An occurrence in `c`" at its first byte (R133), when its two checksum bytes pass the verdict: its payload. -/
def frameAt (p : Params) (c : ByteString) : Option ByteString :=
  match c with
  | [] => none
  | b :: r =>
    if b = dollarByte then
      match r.dropWhile plainByte with
      | m :: c0 :: c1 :: _ =>
        if m = starByte ∧ c0 ≠ dollarByte ∧ c1 ≠ dollarByte ∧ withinLimit p.payloadMax (r.takeWhile plainByte).length = true ∧
            verdict p (xof (r.takeWhile plainByte)) c0 c1 = true then
          some (r.takeWhile plainByte)
        else none
      | _ => none
    else none

/-- The payloads of the validated occurrences of a chunk, "in order of position" (R133). -/
def framesIn (p : Params) : ByteString → List ByteString
  | [] => []
  | b :: r => (frameAt p (b :: r)).toList ++ framesIn p r

/-- A count as `vcnt` shows it: "modulo 2^`COUNT_W`" (R119, R133). -/
def countShown (p : Params) (n : Nat) : Nat :=
  match p.countW with
  | .fin w => n % 2 ^ w
  | .inf => n

end Sys2Proof.Machine
end

