-- ==== Sys2Proof/Certificates/Slice0/Obligations.lean ====
section
/-! DEFINITION. The statements about the model, each from the numbered rules of the spec its docstring names. -/

open Sys2Proof Sys2Proof.Machine

/-! ## Event words -/

/-- R88 to R91: decoding the word of a well-formed operation gives the operation back, with every data byte. -/
def Obligations.DecodeOfEncode : Prop := ∀ i : Instr, i.wf = true → decode (encode i) = .instr i

/-- R88 to R91: a word that decodes to an operation is that operation's word, and the operation is well formed; so no
two words spell one operation. -/
def Obligations.EncodeOfDecode : Prop := ∀ (w : EventWord) (i : Instr), decode w = .instr i → encode i = w ∧ i.wf = true

/-- R92, R87, R89, R90: which words are illegal on the P port and which spell no operation. -/
def Obligations.ReservedWordsRejectedByName : Prop :=
  ∀ w : EventWord,
    (decode w = .illegalPortWord ↔
      (0x101 ≤ w.toNat ∧ w.toNat ≤ 0x1FF) ∨ (0x202 ≤ w.toNat ∧ w.toNat ≤ 0x2FF) ∨
        (0x301 ≤ w.toNat ∧ w.toNat ≤ 0x3FF)) ∧
    (decode w = .noOperation ↔ (0x403 ≤ w.toNat ∧ w.toNat ≤ 0x7FF) ∨ 0x801 ≤ w.toNat)

/-- R91: the words of the operation map, written out from its column "hex"; `B.OTHER` at every byte but the two
excluded. -/
def Obligations.TableWordsDecode : Prop :=
  decode 0x024#12 = .instr .bStart ∧ decode 0x02A#12 = .instr .bStar ∧
  (∀ b : Byte, b ≠ 0x24#8 → b ≠ 0x2A#8 → decode (0x0#4 ++ b) = .instr (.bOther b)) ∧
  decode 0x100#12 = .instr .soc ∧ decode 0x200#12 = .instr .eoc ∧ decode 0x201#12 = .instr .abort ∧
  decode 0x300#12 = .instr .close ∧ decode 0x400#12 = .instr .dpop ∧ decode 0x401#12 = .instr .dpush ∧
  decode 0x402#12 = .instr .dclose ∧ decode 0x800#12 = .instr .take

/-! ## Steps -/

/-- R18, R86: the turn's word, when it decodes to an operation, is executed on the state with the turn used up; a
P-port word leaves the port unless the step was held (R15). -/
def Obligations.StepRunsDecodedOperation : Prop :=
  ∀ (s : State) (w : EventWord) (i : Instr), fetchWord s = some w → decode w = .instr i →
    step s = settle w (exec i { s with sched := s.sched.tail, turns := s.turns + 1 }) ∧
    ∀ t : State, settle w (.next t) =
      .next (if agentField w = 0b00#2 ∧ t.out ≠ .hold then { t with pport := t.pport.tail } else t)

/-- R92 (a), R215: a reserved word presented on the P port sets `fault` to 6, is consumed, and writes nothing else. -/
def Obligations.ReservedPortWordIsFatal : Prop :=
  ∀ (s : State) (w : PortWord), nextTurn s = .p → s.pport.head? = some w → decodeP w = .illegalPortWord →
    s.fault = .noFault →
    step s = .next { s with fault := .illegalWord, out := .fatal .illegalWord, pport := s.pport.tail,
                            sched := s.sched.tail, turns := s.turns + 1 }

/-- R92 (b): a turn whose word spells no operation is refused by name; a turn of P with no word presented writes no
register (R102). -/
def Obligations.TurnsWithoutOperation : Prop :=
  (∀ (s : State) (w : EventWord), fetchWord s = some w → decode w = .noOperation →
    step s = .refused (.spellsNoOperation w)) ∧
  (∀ s : State, nextTurn s = .p → s.pport = [] →
    step s = .next { s with out := .idle, sched := s.sched.tail, turns := s.turns + 1 })

/-- R18 and the model's free value `Config.freeAgent` (log entry 3, DESIGN CHOICE): with no turn laid down the agent is
the free one, whichever it is; P then tries the word it presents, D the step its loop can take (R190), K tries
`TAKE`. -/
def Obligations.UnlaidTurnIsFree : Prop :=
  ∀ s : State, s.sched = [] →
    fetchWord s =
      match Config.freeAgent s.turns with
      | .p => s.pport.head?.map (eventWord 0b00#2)
      | .d => some (if s.decHold ≠ none then 0x401#12 else if s.rawq = [] then 0x402#12 else 0x400#12)
      | .k => some 0x800#12

/-! ## Data bytes -/

/-- R122: `B.START`, the same in every parser state, and its gating fault (R120, decision D20). That the digit buffer is
cleared too is decision D11. -/
def Obligations.StartByteRestarts : Prop :=
  ∀ s : State, s.fault = .noFault →
    (s.subOpen = true →
      exec .bStart s = .next { s with st := .capturing, pay := [], xacc := 0x00#8, dbuf := none, out := .done }) ∧
    (s.subOpen = false →
      exec .bStart s = .next { s with fault := .outsideSubmission, out := .fatal .outsideSubmission })

/-- R123: `B.STAR` in each parser state; a `'*'` in either checksum position never matches, so the step never holds and
never emits. The third parser state is the spec's reading of the source's cell (decision D10). -/
def Obligations.StarByteEffect : Prop :=
  ∀ s : State, s.fault = .noFault → s.subOpen = true →
    (s.st = .idle → exec .bStar s = .next { s with out := .done }) ∧
    (s.st = .capturing → exec .bStar s = .next { s with st := .awaitingChecksum, out := .done }) ∧
    (s.st = .awaitingChecksum → s.dbuf = none →
      exec .bStar s = .next { s with dbuf := some 0x2A#8, out := .done }) ∧
    (s.st = .awaitingChecksum → ∀ c0, s.dbuf = some c0 →
      exec .bStar s = .next { s with st := .idle, pay := [], xacc := 0x00#8, dbuf := none, out := .done }) ∧
    (∀ x b, verdict s.params x starByte b = false ∧ verdict s.params x b starByte = false)

/-- R124, R125, R127: `B.OTHER` in Idle and in Capturing, with room in the payload buffer and without (decision D7). That a
payload longer than `PAYLOAD_MAX`, which no run reaches, overflows like one at the bound is the model's reading (DEDUCED, log
entry 7). -/
def Obligations.OtherByteIsNoiseOrPayload : Prop :=
  ∀ (s : State) (b : Byte), s.fault = .noFault → s.subOpen = true →
    (s.st = .idle → exec (.bOther b) s = .next { s with out := .done }) ∧
    (s.st = .capturing → belowLimit s.params.payloadMax s.pay.length = true →
      exec (.bOther b) s = .next { s with pay := s.pay ++ [b], xacc := s.xacc ^^^ b, out := .done }) ∧
    (s.st = .capturing → belowLimit s.params.payloadMax s.pay.length = false →
      exec (.bOther b) s = .next { s with st := .idle, pay := [], xacc := 0x00#8, dbuf := none, out := .done })

/-- R126, R128: the first checksum byte is kept, unchecked; a second one that fails the verdict drops the frame:
nothing is pushed or counted and the parser is in Idle. -/
def Obligations.DigitKeptOrFrameDropped : Prop :=
  ∀ (s : State) (b : Byte), s.fault = .noFault → s.subOpen = true → s.st = .awaitingChecksum →
    (s.dbuf = none → exec (.bOther b) s = .next { s with dbuf := some b, out := .done }) ∧
    (∀ c0, s.dbuf = some c0 → verdict s.params s.xacc c0 b = false →
      exec (.bOther b) s = .next { s with st := .idle, pay := [], xacc := 0x00#8, dbuf := none, out := .done })

/-- R129 with R128: the second checksum byte of a matching frame, closed tested before full; push, count and the move
to Idle are one step. -/
def Obligations.MatchingFrameIsEmitted : Prop :=
  ∀ (s : State) (b c0 : Byte), s.fault = .noFault → s.subOpen = true → s.st = .awaitingChecksum → s.dbuf = some c0 →
    verdict s.params s.xacc c0 b = true →
    (s.rawqClosed = true →
      exec (.bOther b) s = .next { s with fault := .pushClosed, out := .fatal .pushClosed }) ∧
    (s.rawqClosed = false → s.rawq.length = s.params.qcapRaw →
      exec (.bOther b) s = .next { s with out := .hold }) ∧
    (s.rawqClosed = false → s.rawq.length ≠ s.params.qcapRaw →
      exec (.bOther b) s =
        .next { s with rawq := s.rawq ++ [s.pay], vcnt := countUp s.params s.vcnt, st := .idle, pay := [],
                       xacc := 0x00#8, dbuf := none, out := .done })

/-- R120, R181, R182, R215: a data byte, `EOC` or `ABORT` outside a submission sets `fault` to 3 and writes nothing
else. -/
def Obligations.OutsideSubmissionIsFatal : Prop :=
  ∀ (s : State) (i : Instr), s.fault = .noFault → s.subOpen = false →
    (i = .bStart ∨ i = .bStar ∨ (∃ b, i = .bOther b) ∨ i = .eoc ∨ i = .abort) →
    exec i s = .next { s with fault := .outsideSubmission, out := .fatal .outsideSubmission }

/-! ## Submissions and closing -/

/-- R180: `SOC`, its two fatal cases in test order (decisions D19, D20) and the start of a submission. -/
def Obligations.SocOpensSubmission : Prop :=
  ∀ s : State, s.fault = .noFault →
    (s.rawqClosed = true → exec .soc s = .next { s with fault := .postCloseSubmit, out := .fatal .postCloseSubmit }) ∧
    (s.rawqClosed = false → s.subOpen = true →
      exec .soc s = .next { s with fault := .nestedSubmit, out := .fatal .nestedSubmit }) ∧
    (s.rawqClosed = false → s.subOpen = false → s.params.chunkReset = true →
      exec .soc s = .next { s with subOpen := true, vcnt := 0, st := .idle, pay := [], xacc := 0x00#8, dbuf := none,
                                   out := .done }) ∧
    (s.rawqClosed = false → s.subOpen = false → s.params.chunkReset = false →
      exec .soc s = .next { s with subOpen := true, vcnt := 0, out := .done })

/-- R181: `EOC` returns `(vcnt, 0)` and ends the submission; outside one it is fatal (decision D20). -/
def Obligations.EocReturnsCount : Prop :=
  ∀ s : State, s.fault = .noFault →
    (s.subOpen = false →
      exec .eoc s = .next { s with fault := .outsideSubmission, out := .fatal .outsideSubmission }) ∧
    (s.subOpen = true → s.params.chunkReset = true →
      exec .eoc s = .next { s with subOpen := false, st := .idle, pay := [], xacc := 0x00#8, dbuf := none,
                                   out := .result s.vcnt false }) ∧
    (s.subOpen = true → s.params.chunkReset = false →
      exec .eoc s = .next { s with subOpen := false, out := .result s.vcnt false })

/-- R182: `ABORT` returns `(vcnt, 1)` and ends the submission as `EOC` does (decision D21); `fault` stays as it is. -/
def Obligations.AbortReturnsCountAndError : Prop :=
  ∀ s : State, s.fault = .noFault →
    (s.subOpen = false →
      exec .abort s = .next { s with fault := .outsideSubmission, out := .fatal .outsideSubmission }) ∧
    (s.subOpen = true → s.params.chunkReset = true →
      exec .abort s = .next { s with subOpen := false, st := .idle, pay := [], xacc := 0x00#8, dbuf := none,
                                     out := .result s.vcnt true }) ∧
    (s.subOpen = true → s.params.chunkReset = false →
      exec .abort s = .next { s with subOpen := false, out := .result s.vcnt true })

/-- R183: `CLOSE`, its two fatal cases in test order (decision D20) and the closing of RAWQ. -/
def Obligations.CloseClosesRawq : Prop :=
  ∀ s : State, s.fault = .noFault →
    (s.subOpen = true →
      exec .close s = .next { s with fault := .closeDuringSubmit, out := .fatal .closeDuringSubmit }) ∧
    (s.subOpen = false → s.rawqClosed = true →
      exec .close s = .next { s with fault := .doubleClose, out := .fatal .doubleClose }) ∧
    (s.subOpen = false → s.rawqClosed = false → exec .close s = .next { s with rawqClosed := true, out := .done })

/-! ## The decode task and the consumer -/

/-- R184: `DPOP` is enabled exactly when nothing is held and RAWQ has an entry; it decodes the head. -/
def Obligations.DpopDecodesHead : Prop :=
  ∀ s : State, s.fault = .noFault →
    (∀ e r, s.decHold = none → s.rawq = e :: r →
      exec .dpop s = .next { s with decHold := some (dec e), rawq := r, out := .done }) ∧
    (s.decHold ≠ none ∨ s.rawq = [] → exec .dpop s = .next { s with out := .hold })

/-- R185: `DPUSH` is enabled exactly when a Sentence is held and OUTQ has room; it delivers the Sentence. That a closed OUTQ
beside a held Sentence, which no run reaches, is not tested follows R185's own words (log entry 6). -/
def Obligations.DpushDelivers : Prop :=
  ∀ s : State, s.fault = .noFault →
    (∀ x, s.decHold = some x → s.outq.length < s.params.qcapOut →
      exec .dpush s = .next { s with outq := s.outq ++ [x], decHold := none, out := .done }) ∧
    (s.decHold = none ∨ ¬ s.outq.length < s.params.qcapOut → exec .dpush s = .next { s with out := .hold })

/-- R186: `DCLOSE` is enabled exactly when RAWQ is closed and empty, nothing is held and OUTQ is open; it closes
OUTQ. -/
def Obligations.DcloseClosesOutq : Prop :=
  ∀ s : State, s.fault = .noFault →
    (s.rawqClosed = true → s.rawq = [] → s.decHold = none → s.outqClosed = false →
      exec .dclose s = .next { s with outqClosed := true, out := .done }) ∧
    (s.rawqClosed = false ∨ s.rawq ≠ [] ∨ s.decHold ≠ none ∨ s.outqClosed = true →
      exec .dclose s = .next { s with out := .hold })

/-- R187: `TAKE` in its three cases; at end of stream nothing but the outputs changes (decision D33). -/
def Obligations.TakeReadsOutq : Prop :=
  ∀ s : State, s.fault = .noFault →
    (∀ x r, s.outq = x :: r → exec .take s = .next { s with outq := r, out := .sentence x }) ∧
    (s.outq = [] → s.outqClosed = true → exec .take s = .next { s with out := .eos }) ∧
    (s.outq = [] → s.outqClosed = false → exec .take s = .next { s with out := .hold })

/-- R102 with R187: `k_valid` before a `TAKE` says that it returns the Sentence shown on `k_sentence`, `k_eos` that it
returns `EOS`, and neither that it is held. -/
def Obligations.ConsumerPortSignals : Prop :=
  ∀ s t : State, s.fault = .noFault → exec .take s = .next t →
    (kValid s = true ↔ ∃ x, kSentence s = some x ∧ t.out = .sentence x) ∧ (kEos s = true ↔ t.out = .eos) ∧
    (kValid s = false ∧ kEos s = false ↔ t.out = .hold)

/-! ## Outcomes of all operations -/

/-- Every operation has an outcome in every state (R19, R131). That all three outcomes of R19, `hold` and `fatal` among them,
are next states is the model's choice (DEDUCED, log entry 5): no meaning stops the model. -/
def Obligations.EveryOperationAnswersNext : Prop := ∀ (i : Instr) (s : State), ∃ t : State, exec i s = .next t

/-- R219, R191: with a fatal fault standing no operation of any agent is enabled and nothing changes. -/
def Obligations.FatalStopsEveryAgent : Prop :=
  ∀ (i : Instr) (s : State), s.fault ≠ .noFault → exec i s = .next { s with out := .hold }

/-- R219, R220: with a fatal fault standing a step changes no register and consumes no P-port word. -/
def Obligations.FatalStepKeepsEverything : Prop :=
  ∀ s t : State, s.fault ≠ .noFault → step s = .next t →
    t = { s with out := t.out, sched := s.sched.tail, turns := s.turns + 1 }

/-- R15, R19: a held step writes nothing. -/
def Obligations.HoldWritesNothing : Prop :=
  ∀ (i : Instr) (s t : State), exec i s = .next t → t.out = .hold → t = { s with out := .hold }

/-- R219: a step that raises a fatal fault writes `fault` and nothing else. -/
def Obligations.FatalEntryWritesOnlyFault : Prop :=
  ∀ (i : Instr) (s t : State) (c : FaultCode), exec i s = .next t → t.out = .fatal c →
    s.fault = .noFault ∧ c ≠ .noFault ∧ t = { s with fault := c, out := .fatal c }

/-- R189: P is held by one condition alone, the second checksum byte of a matching frame while RAWQ is full. -/
def Obligations.ProducerHeldOnlyByFullRawq : Prop :=
  ∀ (i : Instr) (s t : State), i.agent = .p → s.fault = .noFault → exec i s = .next t →
    (t.out = .hold ↔
      ∃ b c0, i = .bOther b ∧ s.subOpen = true ∧ s.st = .awaitingChecksum ∧ s.dbuf = some c0 ∧
        verdict s.params s.xacc c0 b = true ∧ s.rawqClosed = false ∧ s.rawq.length = s.params.qcapRaw)

/-- R102: `p_ready = 0` is the hold of a P step, also under a standing fatal fault (R219). -/
def Obligations.PortReadyIsNoHold : Prop :=
  ∀ (w : PortWord) (i : Instr) (s t : State), decodeP w = .instr i → exec i s = .next t →
    (t.out = .hold ↔ pReady s w = false)

/-- R190, which the spec derives from R184 to R186: at most one of D's three steps is enabled. -/
def Obligations.AtMostOneDecodeStep : Prop :=
  ∀ (i j : Instr) (s t u : State), i.agent = .d → j.agent = .d → exec i s = .next t → exec j s = .next u →
    t.out ≠ .hold → u.out ≠ .hold → i = j

/-- R191, which the spec derives from R180 to R187, for every operation and, for its fatal column, the order of R218; the
premise is the invariant of R53. -/
def Obligations.EnablednessTable : Prop :=
  ∀ (i : Instr) (s t : State), closureOrdered s → s.fault = .noFault → exec i s = .next t →
    (∀ c, fatalFor i s = some c → t.out = .fatal c) ∧
    (fatalFor i s = none → (enabledIn i s = true ↔ taken t.out = true) ∧ (enabledIn i s = false ↔ t.out = .hold))

/-! ## Frames -/

/-- R55, R122 to R130: what the data-byte operations leave unchanged; the markers also leave RAWQ and the count. -/
def Obligations.FrameOfDataBytes : Prop :=
  ∀ (i : Instr) (s t : State), (i = .bStart ∨ i = .bStar ∨ ∃ b, i = .bOther b) → exec i s = .next t →
    t.subOpen = s.subOpen ∧ t.rawqClosed = s.rawqClosed ∧ t.decHold = s.decHold ∧ t.outq = s.outq ∧
    t.outqClosed = s.outqClosed ∧
    (i = .bStart ∨ i = .bStar → t.rawq = s.rawq ∧ t.vcnt = s.vcnt)

/-- R55, R180 to R183: what `SOC`, `EOC`, `ABORT` and `CLOSE` leave unchanged. -/
def Obligations.FrameOfSubmissionWords : Prop :=
  ∀ (i : Instr) (s t : State), (i = .soc ∨ i = .eoc ∨ i = .abort ∨ i = .close) → exec i s = .next t →
    t.rawq = s.rawq ∧ t.decHold = s.decHold ∧ t.outq = s.outq ∧ t.outqClosed = s.outqClosed ∧
    (i ≠ .close → t.rawqClosed = s.rawqClosed) ∧
    (i ≠ .soc → t.vcnt = s.vcnt) ∧
    (i = .close ∨ s.params.chunkReset = false →
      t.st = s.st ∧ t.pay = s.pay ∧ t.xacc = s.xacc ∧ t.dbuf = s.dbuf) ∧
    (i = .close → t.subOpen = s.subOpen)

/-- R55, R184 to R187, R215: what the operations of D and K leave unchanged, `fault` among it. -/
def Obligations.FrameOfDecodeAndTake : Prop :=
  ∀ (i : Instr) (s t : State), (i = .dpop ∨ i = .dpush ∨ i = .dclose ∨ i = .take) → exec i s = .next t →
    t.st = s.st ∧ t.pay = s.pay ∧ t.xacc = s.xacc ∧ t.dbuf = s.dbuf ∧ t.vcnt = s.vcnt ∧ t.subOpen = s.subOpen ∧
    t.rawqClosed = s.rawqClosed ∧ t.fault = s.fault ∧
    (i ≠ .dpop → t.rawq = s.rawq) ∧ (i = .dclose ∨ i = .take → t.decHold = s.decHold) ∧
    (i = .dpop ∨ i = .dclose → t.outq = s.outq) ∧ (i ≠ .dclose → t.outqClosed = s.outqClosed)

/-- R6 to R11, R219: no operation writes a parameter, nor the words presented or the turns laid down (log entries 1 and
3); `fault` is written by a fatal outcome alone. -/
def Obligations.FrameOfInputsAndFault : Prop :=
  ∀ (i : Instr) (s t : State), exec i s = .next t →
    t.params = s.params ∧ t.pport = s.pport ∧ t.sched = s.sched ∧ t.turns = s.turns ∧
    ((∀ c, t.out ≠ .fatal c) → t.fault = s.fault)

/-! ## Reset and invariants -/

/-- R54: the reset values of the twelve registers, whatever the parameters (those of `pay`, `xacc`, `dbuf`, `vcnt` and
`fault` are decision D26); that `State.reset` is the creation with the reference parameters is the model's choice (log
entry 1). -/
def Obligations.ResetValues : Prop :=
  (∀ p : Params, (State.create p).st = .idle ∧ (State.create p).pay = [] ∧ (State.create p).xacc = 0x00#8 ∧
    (State.create p).dbuf = none ∧ (State.create p).vcnt = 0 ∧ (State.create p).subOpen = false ∧
    (State.create p).rawq = [] ∧ (State.create p).rawqClosed = false ∧ (State.create p).decHold = none ∧
    (State.create p).outq = [] ∧ (State.create p).outqClosed = false ∧ (State.create p).fault = .noFault ∧
    (State.create p).params = p) ∧
  State.reset = State.create Params.reference

/-- R48 to R53, which the spec derives, hold in the reset state, whatever the parameters. -/
def Obligations.InvariantsAtReset : Prop := ∀ p : Params, Invariants (State.create p)

/-- R48 to R53, which the spec derives, are kept by every step, of every agent and under every schedule. -/
def Obligations.StepKeepsInvariants : Prop := ∀ s t : State, Invariants s → step s = .next t → Invariants t

/-- R37, R40, R41 and R6 to R11: closed bits and a fatal fault are never undone, parameters never change. -/
def Obligations.StepNeverReopens : Prop :=
  ∀ s t : State, step s = .next t →
    t.params = s.params ∧ (s.rawqClosed = true → t.rawqClosed = true) ∧ (s.outqClosed = true → t.outqClosed = true) ∧
    (s.fault ≠ .noFault → t.fault = s.fault)

/-- R192: the phases are passed in order and never backwards. -/
def Obligations.PhasesNeverGoBack : Prop :=
  ∀ s t : State, closureOrdered s → step s = .next t → (phaseOf s).rank ≤ (phaseOf t).rank

/-- R192: in `Done` the only enabled step is `TAKE`, which returns `EOS` and changes nothing. -/
def Obligations.DoneOnlyTakesEos : Prop :=
  ∀ (i : Instr) (s t : State), isDone s = true → exec i s = .next t →
    (taken t.out = true ↔ i = .take) ∧ (i = .take → t = { s with out := .eos })

/-- R194: the number of validated payloads in flight is at most `QCAP_RAW + 1 + QCAP_OUT`. -/
def Obligations.InFlightIsBounded : Prop :=
  ∀ s : State, withinCapacity s → (inFlight s).length ≤ s.params.qcapRaw + 1 + s.params.qcapOut

/-! ## Data through the pipeline -/

/-- R52, R128, R129: RAWQ gains an entry only by the second checksum byte of a frame whose verdict is true, and what it
gains is the payload gathered, counted in the same step. -/
def Obligations.OnlyVerifiedFramesAreEmitted : Prop :=
  ∀ (i : Instr) (s t : State), exec i s = .next t → s.rawq.length < t.rawq.length →
    ∃ b c0, i = .bOther b ∧ s.st = .awaitingChecksum ∧ s.dbuf = some c0 ∧ verdict s.params s.xacc c0 b = true ∧
      t.rawq = s.rawq ++ [s.pay] ∧ t.vcnt = countUp s.params s.vcnt

/-- R161, R162, R168: an operation appends one entry at the end of a queue, removes the one at its head, or leaves the
queue. -/
def Obligations.QueuesAreFifo : Prop :=
  ∀ (i : Instr) (s t : State), exec i s = .next t →
    (t.rawq = s.rawq ∨ (∃ e, t.rawq = s.rawq ++ [e]) ∨ (∃ e, s.rawq = e :: t.rawq)) ∧
    (t.outq = s.outq ∨ (∃ x, t.outq = s.outq ++ [x]) ∨ (∃ x, s.outq = x :: t.outq))

/-- R195, R69, R168: over any sequence of operations from any state, what K receives followed by what is then in
flight is what was in flight followed by `DEC` of the payloads emitted, in order. -/
def Obligations.EndToEndOrder : Prop :=
  ∀ (is : List Instr) (s : State),
    deliveredBy is s ++ inFlight (runOps is s) = inFlight s ++ (emittedIn is s).map dec

/-- R195, R34, R119: when no count wraps, the counts returned and the count of the open submission add up to the
payloads emitted. -/
def Obligations.CountsAddUp : Prop :=
  ∀ (is : List Instr) (s : State), s.params.countW = .inf →
    (countsOf is s).sum + openCount (runOps is s) = openCount s + (emittedIn is s).length

/-- R71: when `TAKE` returns `EOS`, nothing validated is left undelivered; the premise is the invariant of R53. -/
def Obligations.EosMeansDrained : Prop :=
  ∀ s t : State, closureOrdered s → exec .take s = .next t → t.out = .eos → inFlight s = [] ∧ s.rawqClosed = true

/-- R71, R193: from a closed pipeline in which no invariant of R53 fails, steps of D and K alone reach `Done`, as many
as `drainLeft` counts, and K receives exactly what was in flight. -/
def Obligations.ClosedPipelineDrains : Prop :=
  ∀ s : State, closureOrdered s → s.params.wf = true → s.fault = .noFault → s.rawqClosed = true →
    ∃ is : List Instr, (∀ i ∈ is, i.agent ≠ .p) ∧ is.length = drainLeft s ∧ isDone (runOps is s) = true ∧
      deliveredBy is s = inFlight s

/-- R133, R188: one submission into a pipeline with room emits the payloads of the validated occurrences of its bytes,
in order of position, and returns their number; RAWQ stays open, and D's and K's registers are as before. When `CHUNK_RESET` is false, `st`
is Idle at its `SOC`. -/
def Obligations.SubmissionYieldsItsFrames : Prop :=
  ∀ (c : ByteString) (s : State), s.fault = .noFault → s.subOpen = false → s.rawqClosed = false →
    (s.params.chunkReset = true ∨ s.st = .idle) →
    s.rawq.length + (framesIn s.params c).length ≤ s.params.qcapRaw →
    (runOps (submit c) s).rawq = s.rawq ++ framesIn s.params c ∧
    (runOps (submit c) s).out = .result (countShown s.params (framesIn s.params c).length) false ∧
    (runOps (submit c) s).fault = .noFault ∧ (runOps (submit c) s).subOpen = false ∧
    (runOps (submit c) s).rawqClosed = false ∧ (runOps (submit c) s).decHold = s.decHold ∧
    (runOps (submit c) s).outq = s.outq ∧ (runOps (submit c) s).outqClosed = s.outqClosed

/-- R135: with `CHUNK_RESET` true two submissions emit the frames of each chunk on its own; with it false they emit the
frames of the two chunks put together. -/
def Obligations.ChunkBoundaries : Prop :=
  ∀ (c1 c2 : ByteString) (s : State), s.fault = .noFault → s.subOpen = false → s.rawqClosed = false →
    (s.params.chunkReset = true →
      s.rawq.length + (framesIn s.params c1 ++ framesIn s.params c2).length ≤ s.params.qcapRaw →
      (runOps (submit c1 ++ submit c2) s).rawq = s.rawq ++ (framesIn s.params c1 ++ framesIn s.params c2)) ∧
    (s.params.chunkReset = false → s.st = .idle →
      s.rawq.length + (framesIn s.params (c1 ++ c2)).length ≤ s.params.qcapRaw →
      (runOps (submit c1 ++ submit c2) s).rawq = s.rawq ++ framesIn s.params (c1 ++ c2))

/-- R134 (a) to (e), which the spec derives from R133, with R100: bytes without `'$'` yield nothing; a well-formed frame
yields its payload before what the bytes after it yield; a frame whose checksum bytes fail the verdict yields nothing; a
`'$'` in the payload, directly after the `'*'` or after one checksum byte discards that frame, whatever follows. -/
def Obligations.FramesOfChunk : Prop :=
  (∀ (q : Params) (c : ByteString), dollarByte ∉ c → framesIn q c = []) ∧
  (∀ (q : Params) (p c : ByteString), markerFree p = true → withinLimit q.payloadMax p.length = true →
    framesIn q (frame p ++ c) = p :: framesIn q c) ∧
  (∀ (q : Params) (p : ByteString) (c0 c1 : Byte), markerFree p = true → verdict q (xof p) c0 c1 = false →
    framesIn q (dollarByte :: (p ++ [starByte, c0, c1])) = []) ∧
  (∀ (q : Params) (p c : ByteString), markerFree p = true →
    framesIn q (dollarByte :: (p ++ dollarByte :: c)) = framesIn q (dollarByte :: c) ∧
    framesIn q (dollarByte :: (p ++ starByte :: dollarByte :: c)) = framesIn q (dollarByte :: c) ∧
    ∀ c0, framesIn q (dollarByte :: (p ++ starByte :: c0 :: dollarByte :: c)) = framesIn q (dollarByte :: c))

/-- R72: enabled steps of different agents commute: either order is enabled and leaves the same state but for the
outputs of the last step; the premises are the invariants of R52 and R53. -/
def Obligations.AgentsCommute : Prop :=
  ∀ (i j : Instr) (s : State) (o : StepOut), withinCapacity s → closureOrdered s → i.agent ≠ j.agent →
    taken (doOp i s).out = true → taken (doOp j s).out = true →
    taken (doOp j (doOp i s)).out = true ∧
    { doOp j (doOp i s) with out := o } = { doOp i (doOp j s) with out := o }

/-! ## Checksum and decoder -/

/-- R118, which the spec derives from R111, R114 and R115: the checksum of a byte string, fed back as the received bytes,
passes the verdict for both values of `RX_UPCASE`; here for every byte string, not only one without markers. -/
def Obligations.ChecksumRoundTrip : Prop :=
  ∀ (q : Params) (p : ByteString), ∃ c0 c1, chk p = [c0, c1] ∧ verdict q (xof p) c0 c1 = true

/-- R117, which the spec derives from R110: `XOF` of a concatenation; `XOF` does not depend on the order of the bytes; two
equal bytes anywhere cancel; the empty string. -/
def Obligations.XofLaws : Prop :=
  (∀ s t : ByteString, xof (s ++ t) = xof s ^^^ xof t) ∧ (∀ s t : ByteString, s.Perm t → xof s = xof t) ∧
  (∀ (s t u : ByteString) (b : Byte), xof (s ++ b :: (t ++ b :: u)) = xof (s ++ (t ++ u))) ∧ xof [] = 0x00#8

/-- R84, R114, R115, R116: the verdict is true exactly for the two digit characters, upper-cased or not as `RX_UPCASE`
says; with `RX_UPCASE` true the lower-case rendering (`a` to `f`) passes, with it false only where it is the upper-case one;
a marker never passes. -/
def Obligations.VerdictAcceptsOnlyDigits : Prop :=
  ∀ (q : Params) (x c0 c1 : Byte),
    (q.rxUpcase = false → (verdict q x c0 c1 = true ↔ [c0, c1] = chk [x])) ∧
    (q.rxUpcase = true → (verdict q x c0 c1 = true ↔ [up c0, up c1] = chk [x])) ∧
    ([c0, c1] = renderLower x → (verdict q x c0 c1 = true ↔ q.rxUpcase = true ∨ renderLower x = chk [x])) ∧
    (verdict q x c0 c1 = true → plainByte c0 = true ∧ plainByte c1 = true)

/-- R113: the lower-case rendering, upper-cased, is the rendering used. -/
def Obligations.RenderingIsUpperCase : Prop := ∀ x : Byte, (renderLower x).map up = render x

/-- R150, R96: joining the fields gives the payload back, no field holds a comma, and there is one field more than
there are commas. -/
def Obligations.SplitLosesNothing : Prop :=
  ∀ p : ByteString, joinFields (split p) = p ∧ (∀ f ∈ split p, commaByte ∉ f) ∧ (split p).length = p.count commaByte + 1

/-- R151 to R154, R96: `Data` is the split, `Valid` says the header has five bytes, `Kind` is its last three or
empty. -/
def Obligations.DecodedSentence : Prop :=
  ∀ p : ByteString, (dec p).data = split p ∧
    ∃ h fs, (dec p).data = h :: fs ∧ ((dec p).valid = true ↔ h.length = 5) ∧
      ((dec p).valid = false → (dec p).kind = []) ∧
      ((dec p).valid = true → ∃ a b c d e, h = [a, b, c, d, e] ∧ (dec p).kind = [c, d, e])

/-- R156: no field of a Sentence made from a marker-free payload contains a marker or a comma. -/
def Obligations.FieldsAreClean : Prop :=
  ∀ p : ByteString, markerFree p = true → ∀ f ∈ (dec p).data, ∀ b ∈ f, b ≠ dollarByte ∧ b ≠ starByte ∧ b ≠ commaByte
end

