-- ==== Sys2Proof/Laws/State.lean ====
section
/-! SUPPORT. What each named update of the state does to each field, so that no later proof unfolds a record
update. -/

namespace Sys2Proof.Machine

@[simp] theorem resetAcc_st (s : State) : (resetAcc s).st = s.st := rfl
@[simp] theorem resetAcc_pay (s : State) : (resetAcc s).pay = [] := rfl
@[simp] theorem resetAcc_xacc (s : State) : (resetAcc s).xacc = 0x00#8 := rfl
@[simp] theorem resetAcc_dbuf (s : State) : (resetAcc s).dbuf = none := rfl
@[simp] theorem resetAcc_vcnt (s : State) : (resetAcc s).vcnt = s.vcnt := rfl
@[simp] theorem resetAcc_subOpen (s : State) : (resetAcc s).subOpen = s.subOpen := rfl
@[simp] theorem resetAcc_rawq (s : State) : (resetAcc s).rawq = s.rawq := rfl
@[simp] theorem resetAcc_rawqClosed (s : State) : (resetAcc s).rawqClosed = s.rawqClosed := rfl
@[simp] theorem resetAcc_decHold (s : State) : (resetAcc s).decHold = s.decHold := rfl
@[simp] theorem resetAcc_outq (s : State) : (resetAcc s).outq = s.outq := rfl
@[simp] theorem resetAcc_outqClosed (s : State) : (resetAcc s).outqClosed = s.outqClosed := rfl
@[simp] theorem resetAcc_fault (s : State) : (resetAcc s).fault = s.fault := rfl
@[simp] theorem resetAcc_params (s : State) : (resetAcc s).params = s.params := rfl
@[simp] theorem resetAcc_out (s : State) : (resetAcc s).out = s.out := rfl
@[simp] theorem resetAcc_pport (s : State) : (resetAcc s).pport = s.pport := rfl
@[simp] theorem resetAcc_sched (s : State) : (resetAcc s).sched = s.sched := rfl
@[simp] theorem resetAcc_turns (s : State) : (resetAcc s).turns = s.turns := rfl

@[simp] theorem forceIdle_st (s : State) : (forceIdle s).st = .idle := rfl
@[simp] theorem forceIdle_pay (s : State) : (forceIdle s).pay = [] := rfl
@[simp] theorem forceIdle_xacc (s : State) : (forceIdle s).xacc = 0x00#8 := rfl
@[simp] theorem forceIdle_dbuf (s : State) : (forceIdle s).dbuf = none := rfl
@[simp] theorem forceIdle_vcnt (s : State) : (forceIdle s).vcnt = s.vcnt := rfl
@[simp] theorem forceIdle_subOpen (s : State) : (forceIdle s).subOpen = s.subOpen := rfl
@[simp] theorem forceIdle_rawq (s : State) : (forceIdle s).rawq = s.rawq := rfl
@[simp] theorem forceIdle_rawqClosed (s : State) : (forceIdle s).rawqClosed = s.rawqClosed := rfl
@[simp] theorem forceIdle_decHold (s : State) : (forceIdle s).decHold = s.decHold := rfl
@[simp] theorem forceIdle_outq (s : State) : (forceIdle s).outq = s.outq := rfl
@[simp] theorem forceIdle_outqClosed (s : State) : (forceIdle s).outqClosed = s.outqClosed := rfl
@[simp] theorem forceIdle_fault (s : State) : (forceIdle s).fault = s.fault := rfl
@[simp] theorem forceIdle_params (s : State) : (forceIdle s).params = s.params := rfl
@[simp] theorem forceIdle_out (s : State) : (forceIdle s).out = s.out := rfl
@[simp] theorem forceIdle_pport (s : State) : (forceIdle s).pport = s.pport := rfl
@[simp] theorem forceIdle_sched (s : State) : (forceIdle s).sched = s.sched := rfl
@[simp] theorem forceIdle_turns (s : State) : (forceIdle s).turns = s.turns := rfl

@[simp] theorem closeRawq_st (s : State) : (closeRawq s).st = s.st := rfl
@[simp] theorem closeRawq_pay (s : State) : (closeRawq s).pay = s.pay := rfl
@[simp] theorem closeRawq_xacc (s : State) : (closeRawq s).xacc = s.xacc := rfl
@[simp] theorem closeRawq_dbuf (s : State) : (closeRawq s).dbuf = s.dbuf := rfl
@[simp] theorem closeRawq_vcnt (s : State) : (closeRawq s).vcnt = s.vcnt := rfl
@[simp] theorem closeRawq_subOpen (s : State) : (closeRawq s).subOpen = s.subOpen := rfl
@[simp] theorem closeRawq_rawq (s : State) : (closeRawq s).rawq = s.rawq := rfl
@[simp] theorem closeRawq_rawqClosed (s : State) : (closeRawq s).rawqClosed = true := rfl
@[simp] theorem closeRawq_decHold (s : State) : (closeRawq s).decHold = s.decHold := rfl
@[simp] theorem closeRawq_outq (s : State) : (closeRawq s).outq = s.outq := rfl
@[simp] theorem closeRawq_outqClosed (s : State) : (closeRawq s).outqClosed = s.outqClosed := rfl
@[simp] theorem closeRawq_fault (s : State) : (closeRawq s).fault = s.fault := rfl
@[simp] theorem closeRawq_params (s : State) : (closeRawq s).params = s.params := rfl
@[simp] theorem closeRawq_out (s : State) : (closeRawq s).out = s.out := rfl
@[simp] theorem closeRawq_pport (s : State) : (closeRawq s).pport = s.pport := rfl
@[simp] theorem closeRawq_sched (s : State) : (closeRawq s).sched = s.sched := rfl
@[simp] theorem closeRawq_turns (s : State) : (closeRawq s).turns = s.turns := rfl

@[simp] theorem closeOutq_st (s : State) : (closeOutq s).st = s.st := rfl
@[simp] theorem closeOutq_pay (s : State) : (closeOutq s).pay = s.pay := rfl
@[simp] theorem closeOutq_xacc (s : State) : (closeOutq s).xacc = s.xacc := rfl
@[simp] theorem closeOutq_dbuf (s : State) : (closeOutq s).dbuf = s.dbuf := rfl
@[simp] theorem closeOutq_vcnt (s : State) : (closeOutq s).vcnt = s.vcnt := rfl
@[simp] theorem closeOutq_subOpen (s : State) : (closeOutq s).subOpen = s.subOpen := rfl
@[simp] theorem closeOutq_rawq (s : State) : (closeOutq s).rawq = s.rawq := rfl
@[simp] theorem closeOutq_rawqClosed (s : State) : (closeOutq s).rawqClosed = s.rawqClosed := rfl
@[simp] theorem closeOutq_decHold (s : State) : (closeOutq s).decHold = s.decHold := rfl
@[simp] theorem closeOutq_outq (s : State) : (closeOutq s).outq = s.outq := rfl
@[simp] theorem closeOutq_outqClosed (s : State) : (closeOutq s).outqClosed = true := rfl
@[simp] theorem closeOutq_fault (s : State) : (closeOutq s).fault = s.fault := rfl
@[simp] theorem closeOutq_params (s : State) : (closeOutq s).params = s.params := rfl
@[simp] theorem closeOutq_out (s : State) : (closeOutq s).out = s.out := rfl
@[simp] theorem closeOutq_pport (s : State) : (closeOutq s).pport = s.pport := rfl
@[simp] theorem closeOutq_sched (s : State) : (closeOutq s).sched = s.sched := rfl
@[simp] theorem closeOutq_turns (s : State) : (closeOutq s).turns = s.turns := rfl

@[simp] theorem takeTurn_st (s : State) : (takeTurn s).st = s.st := rfl
@[simp] theorem takeTurn_pay (s : State) : (takeTurn s).pay = s.pay := rfl
@[simp] theorem takeTurn_xacc (s : State) : (takeTurn s).xacc = s.xacc := rfl
@[simp] theorem takeTurn_dbuf (s : State) : (takeTurn s).dbuf = s.dbuf := rfl
@[simp] theorem takeTurn_vcnt (s : State) : (takeTurn s).vcnt = s.vcnt := rfl
@[simp] theorem takeTurn_subOpen (s : State) : (takeTurn s).subOpen = s.subOpen := rfl
@[simp] theorem takeTurn_rawq (s : State) : (takeTurn s).rawq = s.rawq := rfl
@[simp] theorem takeTurn_rawqClosed (s : State) : (takeTurn s).rawqClosed = s.rawqClosed := rfl
@[simp] theorem takeTurn_decHold (s : State) : (takeTurn s).decHold = s.decHold := rfl
@[simp] theorem takeTurn_outq (s : State) : (takeTurn s).outq = s.outq := rfl
@[simp] theorem takeTurn_outqClosed (s : State) : (takeTurn s).outqClosed = s.outqClosed := rfl
@[simp] theorem takeTurn_fault (s : State) : (takeTurn s).fault = s.fault := rfl
@[simp] theorem takeTurn_params (s : State) : (takeTurn s).params = s.params := rfl
@[simp] theorem takeTurn_out (s : State) : (takeTurn s).out = s.out := rfl
@[simp] theorem takeTurn_pport (s : State) : (takeTurn s).pport = s.pport := rfl
@[simp] theorem takeTurn_sched (s : State) : (takeTurn s).sched = s.sched.tail := rfl
@[simp] theorem takeTurn_turns (s : State) : (takeTurn s).turns = s.turns + 1 := rfl

@[simp] theorem create_st (p : Params) : (State.create p).st = .idle := rfl
@[simp] theorem create_pay (p : Params) : (State.create p).pay = [] := rfl
@[simp] theorem create_xacc (p : Params) : (State.create p).xacc = 0x00#8 := rfl
@[simp] theorem create_dbuf (p : Params) : (State.create p).dbuf = none := rfl
@[simp] theorem create_vcnt (p : Params) : (State.create p).vcnt = 0 := rfl
@[simp] theorem create_subOpen (p : Params) : (State.create p).subOpen = false := rfl
@[simp] theorem create_rawq (p : Params) : (State.create p).rawq = [] := rfl
@[simp] theorem create_rawqClosed (p : Params) : (State.create p).rawqClosed = false := rfl
@[simp] theorem create_decHold (p : Params) : (State.create p).decHold = none := rfl
@[simp] theorem create_outq (p : Params) : (State.create p).outq = [] := rfl
@[simp] theorem create_outqClosed (p : Params) : (State.create p).outqClosed = false := rfl
@[simp] theorem create_fault (p : Params) : (State.create p).fault = .noFault := rfl
@[simp] theorem create_params (p : Params) : (State.create p).params = p := rfl
@[simp] theorem create_out (p : Params) : (State.create p).out = .idle := rfl
@[simp] theorem create_pport (p : Params) : (State.create p).pport = [] := rfl
@[simp] theorem create_sched (p : Params) : (State.create p).sched = [] := rfl
@[simp] theorem create_turns (p : Params) : (State.create p).turns = 0 := rfl

/-! The two updates that depend on a test. -/

@[simp] theorem chunkEnd_vcnt (s : State) : (chunkEnd s).vcnt = s.vcnt := by unfold chunkEnd; split <;> rfl
@[simp] theorem chunkEnd_subOpen (s : State) : (chunkEnd s).subOpen = s.subOpen := by unfold chunkEnd; split <;> rfl
@[simp] theorem chunkEnd_rawq (s : State) : (chunkEnd s).rawq = s.rawq := by unfold chunkEnd; split <;> rfl
@[simp] theorem chunkEnd_rawqClosed (s : State) : (chunkEnd s).rawqClosed = s.rawqClosed := by unfold chunkEnd; split <;> rfl
@[simp] theorem chunkEnd_decHold (s : State) : (chunkEnd s).decHold = s.decHold := by unfold chunkEnd; split <;> rfl
@[simp] theorem chunkEnd_outq (s : State) : (chunkEnd s).outq = s.outq := by unfold chunkEnd; split <;> rfl
@[simp] theorem chunkEnd_outqClosed (s : State) : (chunkEnd s).outqClosed = s.outqClosed := by unfold chunkEnd; split <;> rfl
@[simp] theorem chunkEnd_fault (s : State) : (chunkEnd s).fault = s.fault := by unfold chunkEnd; split <;> rfl
@[simp] theorem chunkEnd_params (s : State) : (chunkEnd s).params = s.params := by unfold chunkEnd; split <;> rfl
@[simp] theorem chunkEnd_out (s : State) : (chunkEnd s).out = s.out := by unfold chunkEnd; split <;> rfl
@[simp] theorem chunkEnd_pport (s : State) : (chunkEnd s).pport = s.pport := by unfold chunkEnd; split <;> rfl
@[simp] theorem chunkEnd_sched (s : State) : (chunkEnd s).sched = s.sched := by unfold chunkEnd; split <;> rfl
@[simp] theorem chunkEnd_turns (s : State) : (chunkEnd s).turns = s.turns := by unfold chunkEnd; split <;> rfl

theorem chunkEnd_reset (s : State) (h : s.params.chunkReset = true) : chunkEnd s = forceIdle s := if_pos h

theorem chunkEnd_keep (s : State) (h : s.params.chunkReset = false) : chunkEnd s = s := by simp [chunkEnd, h]

@[simp] theorem consumeWord_st (w : EventWord) (s : State) : (consumeWord w s).st = s.st := by
  unfold consumeWord; split <;> rfl
@[simp] theorem consumeWord_pay (w : EventWord) (s : State) : (consumeWord w s).pay = s.pay := by
  unfold consumeWord; split <;> rfl
@[simp] theorem consumeWord_xacc (w : EventWord) (s : State) : (consumeWord w s).xacc = s.xacc := by
  unfold consumeWord; split <;> rfl
@[simp] theorem consumeWord_dbuf (w : EventWord) (s : State) : (consumeWord w s).dbuf = s.dbuf := by
  unfold consumeWord; split <;> rfl
@[simp] theorem consumeWord_vcnt (w : EventWord) (s : State) : (consumeWord w s).vcnt = s.vcnt := by
  unfold consumeWord; split <;> rfl
@[simp] theorem consumeWord_subOpen (w : EventWord) (s : State) : (consumeWord w s).subOpen = s.subOpen := by
  unfold consumeWord; split <;> rfl
@[simp] theorem consumeWord_rawq (w : EventWord) (s : State) : (consumeWord w s).rawq = s.rawq := by
  unfold consumeWord; split <;> rfl
@[simp] theorem consumeWord_rawqClosed (w : EventWord) (s : State) : (consumeWord w s).rawqClosed = s.rawqClosed := by
  unfold consumeWord; split <;> rfl
@[simp] theorem consumeWord_decHold (w : EventWord) (s : State) : (consumeWord w s).decHold = s.decHold := by
  unfold consumeWord; split <;> rfl
@[simp] theorem consumeWord_outq (w : EventWord) (s : State) : (consumeWord w s).outq = s.outq := by
  unfold consumeWord; split <;> rfl
@[simp] theorem consumeWord_outqClosed (w : EventWord) (s : State) : (consumeWord w s).outqClosed = s.outqClosed := by
  unfold consumeWord; split <;> rfl
@[simp] theorem consumeWord_fault (w : EventWord) (s : State) : (consumeWord w s).fault = s.fault := by
  unfold consumeWord; split <;> rfl
@[simp] theorem consumeWord_params (w : EventWord) (s : State) : (consumeWord w s).params = s.params := by
  unfold consumeWord; split <;> rfl
@[simp] theorem consumeWord_out (w : EventWord) (s : State) : (consumeWord w s).out = s.out := by
  unfold consumeWord; split <;> rfl
@[simp] theorem consumeWord_sched (w : EventWord) (s : State) : (consumeWord w s).sched = s.sched := by
  unfold consumeWord; split <;> rfl
@[simp] theorem consumeWord_turns (w : EventWord) (s : State) : (consumeWord w s).turns = s.turns := by
  unfold consumeWord; split <;> rfl

end Sys2Proof.Machine
end

