-- ==== Sys2Proof/Laws/Ops.lean ====
section
/-! SUPPORT. What each shared operation can do, said once; later proofs cite these and do not unfold the operations. -/

namespace Sys2Proof.Machine

/-! ## Outcomes -/

@[simp] theorem returned_eq (o : StepOut) (s : State) : returned o s = .next { s with out := o } := rfl
@[simp] theorem accepted_eq (s : State) : accepted s = .next { s with out := .done } := rfl
@[simp] theorem held_eq (s : State) : held s = .next { s with out := .hold } := rfl
@[simp] theorem raiseFatal_eq (c : FaultCode) (s : State) :
    raiseFatal c s = .next { s with fault := c, out := .fatal c } := rfl
@[simp] theorem after_next (t s : State) : after (.next t) s = t := rfl

/-- Two next states are equal when the answers are. -/
theorem next_inj {a t : State} (h : (.next a : Res) = .next t) : t = a := by cases h; rfl

theorem live_running {s : State} (r : Res) (h : s.fault = .noFault) : live s r = r := if_pos h

theorem live_stopped {s : State} (r : Res) (h : s.fault ≠ .noFault) : live s r = held s := if_neg h

/-- What `live` can answer: held under a standing fault, else what it guards. -/
theorem live_cases {s t : State} {r : Res} (h : live s r = .next t) :
    (s.fault ≠ .noFault ∧ t = { s with out := .hold }) ∨ (s.fault = .noFault ∧ r = .next t) := by
  by_cases hf : s.fault = .noFault
  · rw [live_running r hf] at h; exact .inr ⟨hf, h⟩
  · rw [live_stopped r hf, held_eq] at h; exact .inl ⟨hf, by cases h; rfl⟩

/-- What `inSubmission` can answer. -/
theorem inSubmission_cases {s t : State} {r : Res} (h : inSubmission s r = .next t) :
    (s.fault ≠ .noFault ∧ t = { s with out := .hold }) ∨
    (s.fault = .noFault ∧ s.subOpen = false ∧
      t = { s with fault := .outsideSubmission, out := .fatal .outsideSubmission }) ∨
    (s.fault = .noFault ∧ s.subOpen = true ∧ r = .next t) := by
  obtain h | ⟨hf, h⟩ := live_cases h
  · exact .inl h
  · rcases Bool.eq_false_or_eq_true s.subOpen with hs | hs
    · rw [if_pos hs] at h; exact .inr (.inr ⟨hf, hs, h⟩)
    · rw [hs] at h; exact .inr (.inl ⟨hf, hs, next_inj h⟩)

theorem inSubmission_open {s : State} (r : Res) (hf : s.fault = .noFault) (hs : s.subOpen = true) :
    inSubmission s r = r := by simp [inSubmission, live_running _ hf, hs]

/-! ## Queues -/

/-- The three cases of `PUSH` (R161). -/
theorem push_cases {α : Type} (cap : Nat) (closed : Bool) (q : List α) (e : α) :
    (closed = true ∧ push cap closed q e = .closed) ∨
    (closed = false ∧ q.length = cap ∧ push cap closed q e = .full) ∨
    (closed = false ∧ q.length ≠ cap ∧ push cap closed q e = .pushed (q ++ [e])) := by
  cases closed
  · by_cases h : q.length = cap <;> simp [push, h]
  · simp [push]

@[simp] theorem pop_cons {α : Type} (closed : Bool) (e : α) (q : List α) : pop closed (e :: q) = .entry e q := rfl
@[simp] theorem pop_nil_closed {α : Type} : pop true ([] : List α) = .drained := rfl
@[simp] theorem pop_nil_open {α : Type} : pop false ([] : List α) = .hold := rfl

/-- The three cases of `POP` (R162). -/
theorem pop_cases {α : Type} (closed : Bool) (q : List α) :
    (∃ e r, q = e :: r ∧ pop closed q = .entry e r) ∨ (q = [] ∧ closed = true ∧ pop closed q = .drained) ∨
      (q = [] ∧ closed = false ∧ pop closed q = .hold) := by
  cases q with
  | cons e r => exact .inl ⟨e, r, rfl, rfl⟩
  | nil => cases closed <;> simp

/-- The three cases of `EMIT` (R129). -/
theorem emit_cases (s : State) :
    (s.rawqClosed = true ∧ emit s = .closed) ∨
    (s.rawqClosed = false ∧ s.rawq.length = s.params.qcapRaw ∧ emit s = .full) ∨
    (s.rawqClosed = false ∧ s.rawq.length ≠ s.params.qcapRaw ∧
      emit s = .pushed { s with rawq := s.rawq ++ [s.pay], vcnt := countUp s.params s.vcnt }) := by
  obtain ⟨h, e⟩ | ⟨h, h', e⟩ | ⟨h, h', e⟩ := push_cases s.params.qcapRaw s.rawqClosed s.rawq s.pay
  · exact .inl ⟨h, by simp [emit, e]⟩
  · exact .inr (.inl ⟨h, h', by simp [emit, e]⟩)
  · exact .inr (.inr ⟨h, h', by simp [emit, e]⟩)

/-! ## The parser -/

/-- What `JUDGE` can answer (R128): a drop; or, on a match, a fault, a hold, or the payload pushed and counted. -/
theorem judge_cases {c0 c1 : Byte} {s t : State} (h : judge c0 c1 s = .next t) :
    (verdict s.params s.xacc c0 c1 = false ∧ t = { forceIdle s with out := .done }) ∨
    (verdict s.params s.xacc c0 c1 = true ∧ s.rawqClosed = true ∧
      t = { s with fault := .pushClosed, out := .fatal .pushClosed }) ∨
    (verdict s.params s.xacc c0 c1 = true ∧ s.rawqClosed = false ∧ s.rawq.length = s.params.qcapRaw ∧
      t = { s with out := .hold }) ∨
    (verdict s.params s.xacc c0 c1 = true ∧ s.rawqClosed = false ∧ s.rawq.length ≠ s.params.qcapRaw ∧
      t = { forceIdle s with rawq := s.rawq ++ [s.pay], vcnt := countUp s.params s.vcnt, out := .done }) := by
  unfold judge at h
  by_cases hv : verdict s.params s.xacc c0 c1 = true
  · rw [if_pos hv] at h
    refine .inr ?_
    obtain ⟨hc, e⟩ | ⟨hc, hl, e⟩ | ⟨hc, hl, e⟩ := emit_cases s <;> rw [e] at h
    · exact .inl ⟨hv, hc, next_inj h⟩
    · exact .inr (.inl ⟨hv, hc, hl, next_inj h⟩)
    · exact .inr (.inr ⟨hv, hc, hl, next_inj h⟩)
  · rw [if_neg hv] at h; exact .inl ⟨by simpa using hv, next_inj h⟩

/-- What `DIGIT` can answer (R126). -/
theorem digit_cases {b : Byte} {s t : State} (h : digit b s = .next t) :
    (s.dbuf = none ∧ t = { s with dbuf := some b, out := .done }) ∨
    (∃ c0, s.dbuf = some c0 ∧ judge c0 b s = .next t) := by
  unfold digit at h
  obtain hd | ⟨c0, hd⟩ := Option.eq_none_or_eq_some s.dbuf <;> simp only [hd] at h
  · exact .inl ⟨hd, next_inj h⟩
  · exact .inr ⟨c0, hd, h⟩

theorem appendByte_room {b : Byte} {s : State} (h : payHasRoom s = true) :
    appendByte b s = { s with pay := s.pay ++ [b], xacc := xstep s.xacc b } := if_pos h

theorem appendByte_full {b : Byte} {s : State} (h : payHasRoom s = false) : appendByte b s = forceIdle s := by
  simp [appendByte, h]

/-! ## Turns -/

@[simp] theorem settle_next (w : EventWord) (t : State) : settle w (.next t) = .next (consumeWord w t) := rfl

/-- A turn answers a next state exactly when the operation it tried does. -/
theorem settle_cases {w : EventWord} {r : Res} {t : State} (h : settle w r = .next t) :
    ∃ u, r = .next u ∧ t = consumeWord w u := by
  cases r with
  | next u => exact ⟨u, rfl, next_inj h⟩
  | fault e => cases e
  | refused e => cases h

/-- What a step can answer: an idle turn, a settled operation, or a settled illegal word. -/
theorem step_cases {s t : State} (h : step s = .next t) :
    (fetchWord s = none ∧ t = { takeTurn s with out := .idle }) ∨
    (∃ w i u, fetchWord s = some w ∧ decode w = .instr i ∧ exec i (takeTurn s) = .next u ∧ t = consumeWord w u) ∨
    (∃ w u, fetchWord s = some w ∧ decode w = .illegalPortWord ∧ illegalWord (takeTurn s) = .next u ∧
      t = consumeWord w u) := by
  unfold step at h
  cases hw : fetchWord s with
  | none => rw [hw] at h; exact .inl ⟨rfl, next_inj h⟩
  | some w =>
    rw [hw] at h
    cases hd : decode w with
    | instr i =>
      simp only [hd] at h
      obtain ⟨u, hu, rfl⟩ := settle_cases h
      exact .inr (.inl ⟨w, i, u, rfl, hd, hu, rfl⟩)
    | illegalPortWord =>
      simp only [hd] at h
      obtain ⟨u, hu, rfl⟩ := settle_cases h
      exact .inr (.inr ⟨w, u, rfl, hd, hu, rfl⟩)
    | noOperation => simp [hd] at h

/-- What a reserved P-port word does (R92 a). -/
theorem illegalWord_cases {s t : State} (h : illegalWord s = .next t) :
    (s.fault ≠ .noFault ∧ t = { s with out := .hold }) ∨
    (s.fault = .noFault ∧ t = { s with fault := .illegalWord, out := .fatal .illegalWord }) := by
  obtain h | ⟨hf, h⟩ := live_cases h
  · exact .inl h
  · exact .inr ⟨hf, next_inj h⟩

end Sys2Proof.Machine
end

