-- ==== Sys2Proof/Laws/Meanings.lean ====
section
/-! SUPPORT. What each meaning can answer: one inversion lemma per operation, from the lemmas of the operations it is
made of. -/

namespace Sys2Proof.Machine

/-- The two answers every meaning shares: a standing fault holds, the rest runs. -/
abbrev stopped (s t : State) : Prop := s.fault ≠ .noFault ∧ t = { s with out := .hold }

/-- The answer outside a submission (R120, R181, R182). -/
abbrev outside (s t : State) : Prop :=
  s.fault = .noFault ∧ s.subOpen = false ∧
    t = { s with fault := .outsideSubmission, out := .fatal .outsideSubmission }

theorem parserState_cases (x : ParserState) : x = .idle ∨ x = .capturing ∨ x = .awaitingChecksum := by
  cases x <;> simp

theorem execBStart_cases {s t : State} (h : execBStart s = .next t) :
    stopped s t ∨ outside s t ∨
    (s.fault = .noFault ∧ s.subOpen = true ∧ t = { resetAcc s with st := .capturing, out := .done }) := by
  obtain h | h | ⟨hf, hs, h⟩ := inSubmission_cases h
  · exact .inl h
  · exact .inr (.inl h)
  · exact .inr (.inr ⟨hf, hs, next_inj h⟩)

theorem execBStar_cases {s t : State} (h : execBStar s = .next t) :
    stopped s t ∨ outside s t ∨
    (s.fault = .noFault ∧ s.subOpen = true ∧
      ((s.st = .idle ∧ t = { s with out := .done }) ∨
       (s.st = .capturing ∧ t = { s with st := .awaitingChecksum, out := .done }) ∨
       (s.st = .awaitingChecksum ∧ digit starByte s = .next t))) := by
  obtain h | h | ⟨hf, hs, h⟩ := inSubmission_cases h
  · exact .inl h
  · exact .inr (.inl h)
  · refine .inr (.inr ⟨hf, hs, ?_⟩)
    obtain hst | hst | hst := parserState_cases s.st <;> simp only [hst] at h
    · exact .inl ⟨hst, next_inj h⟩
    · exact .inr (.inl ⟨hst, next_inj h⟩)
    · exact .inr (.inr ⟨hst, h⟩)

theorem execBOther_cases {b : Byte} {s t : State} (h : execBOther b s = .next t) :
    stopped s t ∨ outside s t ∨
    (s.fault = .noFault ∧ s.subOpen = true ∧
      ((s.st = .idle ∧ t = { s with out := .done }) ∨
       (s.st = .capturing ∧ t = { appendByte b s with out := .done }) ∨
       (s.st = .awaitingChecksum ∧ digit b s = .next t))) := by
  obtain h | h | ⟨hf, hs, h⟩ := inSubmission_cases h
  · exact .inl h
  · exact .inr (.inl h)
  · refine .inr (.inr ⟨hf, hs, ?_⟩)
    obtain hst | hst | hst := parserState_cases s.st <;> simp only [hst] at h
    · exact .inl ⟨hst, next_inj h⟩
    · exact .inr (.inl ⟨hst, next_inj h⟩)
    · exact .inr (.inr ⟨hst, h⟩)

theorem execSoc_cases {s t : State} (h : execSoc s = .next t) :
    stopped s t ∨
    (s.fault = .noFault ∧ s.rawqClosed = true ∧
      t = { s with fault := .postCloseSubmit, out := .fatal .postCloseSubmit }) ∨
    (s.fault = .noFault ∧ s.rawqClosed = false ∧ s.subOpen = true ∧
      t = { s with fault := .nestedSubmit, out := .fatal .nestedSubmit }) ∨
    (s.fault = .noFault ∧ s.rawqClosed = false ∧ s.subOpen = false ∧
      t = { chunkEnd { s with subOpen := true, vcnt := 0 } with out := .done }) := by
  obtain h | ⟨hf, h⟩ := live_cases h
  · exact .inl h
  · refine .inr ?_
    by_cases hc : s.rawqClosed = true
    · rw [if_pos hc] at h; exact .inl ⟨hf, hc, next_inj h⟩
    · rw [if_neg hc] at h
      by_cases hs : s.subOpen = true
      · rw [if_pos hs] at h; exact .inr (.inl ⟨hf, by simpa using hc, hs, next_inj h⟩)
      · rw [if_neg hs] at h; exact .inr (.inr ⟨hf, by simpa using hc, by simpa using hs, next_inj h⟩)

theorem execEoc_cases {s t : State} (h : execEoc s = .next t) :
    stopped s t ∨ outside s t ∨
    (s.fault = .noFault ∧ s.subOpen = true ∧
      t = { chunkEnd { s with subOpen := false } with out := .result s.vcnt false }) := by
  obtain h | h | ⟨hf, hs, h⟩ := inSubmission_cases h
  · exact .inl h
  · exact .inr (.inl h)
  · exact .inr (.inr ⟨hf, hs, next_inj h⟩)

theorem execAbort_cases {s t : State} (h : execAbort s = .next t) :
    stopped s t ∨ outside s t ∨
    (s.fault = .noFault ∧ s.subOpen = true ∧
      t = { chunkEnd { s with subOpen := false } with out := .result s.vcnt true }) := by
  obtain h | h | ⟨hf, hs, h⟩ := inSubmission_cases h
  · exact .inl h
  · exact .inr (.inl h)
  · exact .inr (.inr ⟨hf, hs, next_inj h⟩)

theorem execClose_cases {s t : State} (h : execClose s = .next t) :
    stopped s t ∨
    (s.fault = .noFault ∧ s.subOpen = true ∧
      t = { s with fault := .closeDuringSubmit, out := .fatal .closeDuringSubmit }) ∨
    (s.fault = .noFault ∧ s.subOpen = false ∧ s.rawqClosed = true ∧
      t = { s with fault := .doubleClose, out := .fatal .doubleClose }) ∨
    (s.fault = .noFault ∧ s.subOpen = false ∧ s.rawqClosed = false ∧ t = { closeRawq s with out := .done }) := by
  obtain h | ⟨hf, h⟩ := live_cases h
  · exact .inl h
  · refine .inr ?_
    by_cases hs : s.subOpen = true
    · rw [if_pos hs] at h; exact .inl ⟨hf, hs, next_inj h⟩
    · rw [if_neg hs] at h
      by_cases hc : s.rawqClosed = true
      · rw [if_pos hc] at h; exact .inr (.inl ⟨hf, by simpa using hs, hc, next_inj h⟩)
      · rw [if_neg hc] at h; exact .inr (.inr ⟨hf, by simpa using hs, by simpa using hc, next_inj h⟩)

theorem execDpop_cases {s t : State} (h : execDpop s = .next t) :
    t = { s with out := .hold } ∨
    (∃ e r, s.fault = .noFault ∧ s.decHold = none ∧ s.rawq = e :: r ∧
      t = { s with decHold := some (dec e), rawq := r, out := .done }) := by
  obtain h | ⟨hf, h⟩ := live_cases h
  · exact .inl h.2
  · obtain hd | ⟨x, hd⟩ := Option.eq_none_or_eq_some s.decHold <;> simp only [hd] at h
    · obtain ⟨e, r, hq, hp⟩ | ⟨_, _, hp⟩ | ⟨_, _, hp⟩ := pop_cases s.rawqClosed s.rawq <;> rw [hp] at h
      · exact .inr ⟨e, r, hf, hd, hq, next_inj h⟩
      · exact .inl (next_inj h)
      · exact .inl (next_inj h)
    · exact .inl (next_inj h)

theorem execDpush_cases {s t : State} (h : execDpush s = .next t) :
    t = { s with out := .hold } ∨
    (∃ x, s.fault = .noFault ∧ s.decHold = some x ∧ s.outq.length < s.params.qcapOut ∧
      t = { s with outq := s.outq ++ [x], decHold := none, out := .done }) := by
  obtain h | ⟨hf, h⟩ := live_cases h
  · exact .inl h.2
  · obtain hd | ⟨x, hd⟩ := Option.eq_none_or_eq_some s.decHold <;> simp only [hd] at h
    · exact .inl (next_inj h)
    · by_cases hl : s.outq.length < s.params.qcapOut
      · rw [if_pos hl] at h; exact .inr ⟨x, hf, hd, hl, next_inj h⟩
      · rw [if_neg hl] at h; exact .inl (next_inj h)

theorem execDclose_cases {s t : State} (h : execDclose s = .next t) :
    t = { s with out := .hold } ∨
    (s.fault = .noFault ∧ s.decHold = none ∧ s.outqClosed = false ∧ s.rawq = [] ∧ s.rawqClosed = true ∧
      t = { closeOutq s with out := .done }) := by
  obtain h | ⟨hf, h⟩ := live_cases h
  · exact .inl h.2
  · obtain hd | ⟨x, hd⟩ := Option.eq_none_or_eq_some s.decHold <;> simp only [hd] at h
    · by_cases ho : s.outqClosed = true
      · rw [if_pos ho] at h; exact .inl (next_inj h)
      · rw [if_neg ho] at h
        obtain ⟨e, r, _, hp⟩ | ⟨hq, hc, hp⟩ | ⟨_, _, hp⟩ := pop_cases s.rawqClosed s.rawq <;> rw [hp] at h
        · exact .inl (next_inj h)
        · exact .inr ⟨hf, hd, by simpa using ho, hq, hc, next_inj h⟩
        · exact .inl (next_inj h)
    · exact .inl (next_inj h)

theorem execTake_cases {s t : State} (h : execTake s = .next t) :
    t = { s with out := .hold } ∨
    (∃ x r, s.fault = .noFault ∧ s.outq = x :: r ∧ t = { s with outq := r, out := .sentence x }) ∨
    (s.fault = .noFault ∧ s.outq = [] ∧ s.outqClosed = true ∧ t = { s with out := .eos }) := by
  obtain h | ⟨hf, h⟩ := live_cases h
  · exact .inl h.2
  · obtain ⟨x, r, hq, hp⟩ | ⟨hq, hc, hp⟩ | ⟨_, _, hp⟩ := pop_cases s.outqClosed s.outq <;> rw [hp] at h
    · exact .inr (.inl ⟨x, r, hf, hq, next_inj h⟩)
    · exact .inr (.inr ⟨hf, hq, hc, next_inj h⟩)
    · exact .inl (next_inj h)

end Sys2Proof.Machine
end

