-- ==== Sys2Proof/Laws/Strings.lean ====
section
/-! SUPPORT. The small lemmas of the functions on byte strings (R83, R111, R112, R115, R150) and of the occurrences of
R133. -/

namespace Sys2Proof.Machine

/-! ## Checksum -/

@[simp] theorem xof_nil : xof [] = 0x00#8 := rfl

/-- The running accumulator (R112): one more byte is one more `XSTEP`. -/
theorem xof_snoc (s : ByteString) (b : Byte) : xof (s ++ [b]) = xstep (xof s) b := by simp [xof]

/-- The sixteen digit characters are not markers and `up` leaves them alone (R83, R115). -/
theorem hexUp_digit (n : BitVec 4) : plainByte (hexUp n) = true ∧ up (hexUp n) = hexUp n := by
  revert n; decide

/-! ## Fields -/

@[simp] theorem split_nil : split [] = [[]] := rfl

@[simp] theorem split_comma (r : ByteString) : split (commaByte :: r) = [] :: split r := by simp [split]

theorem split_ne_nil (p : ByteString) : split p ≠ [] := by
  cases p with
  | nil => simp
  | cons b r =>
    by_cases h : b = commaByte
    · simp [split, h]
    · cases hr : split r <;> simp [split, h, hr]

/-- A byte that is no comma goes to the front of the first field (R150). -/
theorem split_other {b : Byte} (r : ByteString) (h : b ≠ commaByte) :
    ∃ f fs, split r = f :: fs ∧ split (b :: r) = (b :: f) :: fs := by
  cases hr : split r with
  | nil => exact absurd hr (split_ne_nil r)
  | cons f fs => exact ⟨f, fs, rfl, by simp [split, h, hr]⟩

theorem dec_data (p : ByteString) : (dec p).data = split p := by unfold dec; split <;> rfl

/-! ## Occurrences -/

@[simp] theorem framesIn_nil (p : Params) : framesIn p [] = [] := rfl

theorem framesIn_cons (p : Params) (b : Byte) (r : ByteString) :
    framesIn p (b :: r) = (frameAt p (b :: r)).toList ++ framesIn p r := rfl

/-- No frame starts at a byte that is not `'$'` (R133). -/
theorem framesIn_skip {b : Byte} (p : Params) (r : ByteString) (h : b ≠ dollarByte) :
    framesIn p (b :: r) = framesIn p r := by simp [framesIn_cons, frameAt, h]

/-! ## Runs -/

@[simp] theorem runOps_nil (s : State) : runOps [] s = s := rfl
@[simp] theorem runOps_cons (i : Instr) (is : List Instr) (s : State) : runOps (i :: is) s = runOps is (doOp i s) := rfl

theorem runOps_append (is js : List Instr) (s : State) : runOps (is ++ js) s = runOps js (runOps is s) := by
  induction is generalizing s with
  | nil => rfl
  | cons i is ih => exact ih (doOp i s)

end Sys2Proof.Machine
end

