-- ==== Sys2Proof/Laws/Words.lean ====
section
/-! SUPPORT. The fields of a word and the word made of them (R86, R88). -/

namespace Sys2Proof

/-- Two fields side by side, as a number. -/
theorem append_toNat {m n : Nat} (a : BitVec m) (l : BitVec n) : (a ++ l).toNat = a.toNat * 2 ^ n + l.toNat := by
  rw [BitVec.toNat_append, ← Nat.shiftLeft_add_eq_or_of_lt l.isLt, Nat.shiftLeft_eq]

theorem eventWord_toNat (a : BitVec 2) (l : PortWord) : (eventWord a l).toNat = a.toNat * 1024 + l.toNat :=
  append_toNat a l

theorem agentField_toNat (w : EventWord) : (agentField w).toNat = w.toNat / 1024 % 4 := by
  simp [agentField, Nat.shiftRight_eq_div_pow]

theorem portField_toNat (w : EventWord) : (portField w).toNat = w.toNat % 1024 := by simp [portField]

theorem opField_toNat (w : PortWord) : (opField w).toNat = w.toNat / 256 % 4 := by
  simp [opField, Nat.shiftRight_eq_div_pow]

theorem dataField_toNat (w : PortWord) : (dataField w).toNat = w.toNat % 256 := by simp [dataField]

@[simp] theorem agentField_eventWord (a : BitVec 2) (l : PortWord) : agentField (eventWord a l) = a := by
  apply BitVec.eq_of_toNat_eq
  have := l.isLt; have := a.isLt
  rw [agentField_toNat, eventWord_toNat]; omega

@[simp] theorem portField_eventWord (a : BitVec 2) (l : PortWord) : portField (eventWord a l) = l := by
  apply BitVec.eq_of_toNat_eq
  have := l.isLt; have := a.isLt
  rw [portField_toNat, eventWord_toNat]; omega

/-- A word is its agent field before its port field. -/
theorem eventWord_fields (w : EventWord) : eventWord (agentField w) (portField w) = w := by
  apply BitVec.eq_of_toNat_eq
  have := w.isLt
  rw [eventWord_toNat, agentField_toNat, portField_toNat]; omega

/-- A port word is its op field before its data field. -/
theorem portWord_fields (w : PortWord) : (opField w ++ dataField w : PortWord) = w := by
  apply BitVec.eq_of_toNat_eq
  have := w.isLt
  refine (append_toNat (opField w) (dataField w)).trans ?_
  rw [opField_toNat, dataField_toNat]; omega

/-! The agent of each operation (R223). -/

@[simp] theorem agent_bStart : Instr.agent .bStart = .p := rfl
@[simp] theorem agent_bStar : Instr.agent .bStar = .p := rfl
@[simp] theorem agent_bOther (b : Byte) : Instr.agent (.bOther b) = .p := rfl
@[simp] theorem agent_soc : Instr.agent .soc = .p := rfl
@[simp] theorem agent_eoc : Instr.agent .eoc = .p := rfl
@[simp] theorem agent_abort : Instr.agent .abort = .p := rfl
@[simp] theorem agent_close : Instr.agent .close = .p := rfl
@[simp] theorem agent_dpop : Instr.agent .dpop = .d := rfl
@[simp] theorem agent_dpush : Instr.agent .dpush = .d := rfl
@[simp] theorem agent_dclose : Instr.agent .dclose = .d := rfl
@[simp] theorem agent_take : Instr.agent .take = .k := rfl

end Sys2Proof
end

