-- ==== Sys2Proof/Laws/Exec.lean ====
section
/-! SUPPORT. Everything an operation can do, as one relation: a proof about `exec` is a case analysis on `Effect`. -/

namespace Sys2Proof.Machine

/-- A byte taken as a checksum byte: any byte of class OTHER, and `'*'` (R126). -/
def digitOp (i : Instr) (b : Byte) : Prop := i = .bOther b ∨ (i = .bStar ∧ b = starByte)

@[simp] theorem digitOp_iff (i : Instr) (b : Byte) : digitOp i b ↔ i = .bOther b ∨ (i = .bStar ∧ b = starByte) :=
  Iff.rfl

/-- What `exec i s` can make of `s`, case by case. -/
inductive Effect : Instr → State → State → Prop where
  | hold (i : Instr) (s : State) : Effect i s { s with out := .hold }
  | fatal (i : Instr) (s : State) (c : FaultCode) (run : s.fault = .noFault) (code : c ≠ .noFault) (agent : i.agent = .p) :
      Effect i s { s with fault := c, out := .fatal c }
  | restart (s : State) (run : s.fault = .noFault) (opened : s.subOpen = true) :
      Effect .bStart s { resetAcc s with st := .capturing, out := .done }
  | noise (i : Instr) (byte : ∃ b, digitOp i b) (s : State) (run : s.fault = .noFault) (opened : s.subOpen = true)
      (st : s.st = .idle) : Effect i s { s with out := .done }
  | starMark (s : State) (run : s.fault = .noFault) (opened : s.subOpen = true) (st : s.st = .capturing) :
      Effect .bStar s { s with st := .awaitingChecksum, out := .done }
  | payload (b : Byte) (s : State) (run : s.fault = .noFault) (opened : s.subOpen = true) (st : s.st = .capturing)
      (room : payHasRoom s = true) :
      Effect (.bOther b) s { s with pay := s.pay ++ [b], xacc := xstep s.xacc b, out := .done }
  | overflow (b : Byte) (s : State) (run : s.fault = .noFault) (opened : s.subOpen = true) (st : s.st = .capturing)
      (full : payHasRoom s = false) : Effect (.bOther b) s { forceIdle s with out := .done }
  | firstDigit (i : Instr) (b : Byte) (byte : digitOp i b) (s : State) (run : s.fault = .noFault)
      (opened : s.subOpen = true) (st : s.st = .awaitingChecksum) (dbuf : s.dbuf = none) :
      Effect i s { s with dbuf := some b, out := .done }
  | mismatch (i : Instr) (b c0 : Byte) (byte : digitOp i b) (s : State) (run : s.fault = .noFault)
      (opened : s.subOpen = true) (st : s.st = .awaitingChecksum) (dbuf : s.dbuf = some c0)
      (no : verdict s.params s.xacc c0 b = false) : Effect i s { forceIdle s with out := .done }
  | emit (i : Instr) (b c0 : Byte) (byte : digitOp i b) (s : State) (run : s.fault = .noFault)
      (opened : s.subOpen = true) (st : s.st = .awaitingChecksum) (dbuf : s.dbuf = some c0)
      (yes : verdict s.params s.xacc c0 b = true) (notClosed : s.rawqClosed = false)
      (room : s.rawq.length ≠ s.params.qcapRaw) :
      Effect i s { forceIdle s with rawq := s.rawq ++ [s.pay], vcnt := countUp s.params s.vcnt, out := .done }
  | soc (s : State) (run : s.fault = .noFault) (notClosed : s.rawqClosed = false) (notOpen : s.subOpen = false) :
      Effect .soc s { chunkEnd { s with subOpen := true, vcnt := 0 } with out := .done }
  | eoc (s : State) (run : s.fault = .noFault) (opened : s.subOpen = true) :
      Effect .eoc s { chunkEnd { s with subOpen := false } with out := .result s.vcnt false }
  | abort (s : State) (run : s.fault = .noFault) (opened : s.subOpen = true) :
      Effect .abort s { chunkEnd { s with subOpen := false } with out := .result s.vcnt true }
  | close (s : State) (run : s.fault = .noFault) (notOpen : s.subOpen = false) (notClosed : s.rawqClosed = false) :
      Effect .close s { s with rawqClosed := true, out := .done }
  | dpop (s : State) (e : ByteString) (r : List ByteString) (run : s.fault = .noFault) (free : s.decHold = none)
      (head : s.rawq = e :: r) : Effect .dpop s { s with decHold := some (dec e), rawq := r, out := .done }
  | dpush (s : State) (x : Sentence) (run : s.fault = .noFault) (has : s.decHold = some x)
      (room : s.outq.length < s.params.qcapOut) :
      Effect .dpush s { s with outq := s.outq ++ [x], decHold := none, out := .done }
  | dclose (s : State) (run : s.fault = .noFault) (free : s.decHold = none) (notClosed : s.outqClosed = false)
      (empty : s.rawq = []) (closed : s.rawqClosed = true) : Effect .dclose s { s with outqClosed := true, out := .done }
  | take (s : State) (x : Sentence) (r : List Sentence) (run : s.fault = .noFault) (head : s.outq = x :: r) :
      Effect .take s { s with outq := r, out := .sentence x }
  | eos (s : State) (run : s.fault = .noFault) (empty : s.outq = []) (closed : s.outqClosed = true) :
      Effect .take s { s with out := .eos }

/-- The effects of a checksum byte, given those of `DIGIT`. -/
theorem digit_effect {i : Instr} {b : Byte} {s t : State} (run : s.fault = .noFault) (opened : s.subOpen = true)
    (byte : digitOp i b) (st : s.st = .awaitingChecksum) (h : digit b s = .next t) : Effect i s t := by
  have agent : i.agent = .p := by rcases byte with rfl | ⟨rfl, _⟩ <;> rfl
  obtain ⟨hd, rfl⟩ | ⟨c0, hd, hj⟩ := digit_cases h
  · exact .firstDigit i b byte s run opened st hd
  · obtain ⟨hv, rfl⟩ | ⟨_, _, rfl⟩ | ⟨_, _, _, rfl⟩ | ⟨hv, hc, hl, rfl⟩ := judge_cases hj
    · exact .mismatch i b c0 byte s run opened st hd hv
    · exact .fatal i s _ run (by decide) agent
    · exact .hold i s
    · exact .emit i b c0 byte s run opened st hd hv hc hl

/-- Every next state of an operation is one of the effects. -/
theorem exec_effect {i : Instr} {s t : State} (h : exec i s = .next t) : Effect i s t := by
  cases i with
  | bStart =>
    obtain ⟨_, rfl⟩ | ⟨hf, _, rfl⟩ | ⟨hf, ho, rfl⟩ := execBStart_cases h
    · exact .hold _ s
    · exact .fatal _ s _ hf (by decide) rfl
    · exact .restart s hf ho
  | bStar =>
    obtain ⟨_, rfl⟩ | ⟨hf, _, rfl⟩ | ⟨hf, ho, ⟨hs, rfl⟩ | ⟨hs, rfl⟩ | ⟨hs, hd⟩⟩ := execBStar_cases h
    · exact .hold _ s
    · exact .fatal _ s _ hf (by decide) rfl
    · exact .noise _ ⟨starByte, .inr ⟨rfl, rfl⟩⟩ s hf ho hs
    · exact .starMark s hf ho hs
    · exact digit_effect hf ho (.inr ⟨rfl, rfl⟩) hs hd
  | bOther b =>
    obtain ⟨_, rfl⟩ | ⟨hf, _, rfl⟩ | ⟨hf, ho, ⟨hs, rfl⟩ | ⟨hs, rfl⟩ | ⟨hs, hd⟩⟩ := execBOther_cases h
    · exact .hold _ s
    · exact .fatal _ s _ hf (by decide) rfl
    · exact .noise _ ⟨b, .inl rfl⟩ s hf ho hs
    · by_cases hr : payHasRoom s = true
      · rw [appendByte_room hr]; exact .payload b s hf ho hs hr
      · have hr : payHasRoom s = false := by simpa using hr
        rw [appendByte_full hr]; exact .overflow b s hf ho hs hr
    · exact digit_effect hf ho (.inl rfl) hs hd
  | soc =>
    obtain ⟨_, rfl⟩ | ⟨hf, _, rfl⟩ | ⟨hf, _, _, rfl⟩ | ⟨hf, hc, ho, rfl⟩ := execSoc_cases h
    · exact .hold _ s
    · exact .fatal _ s _ hf (by decide) rfl
    · exact .fatal _ s _ hf (by decide) rfl
    · exact .soc s hf hc ho
  | eoc =>
    obtain ⟨_, rfl⟩ | ⟨hf, _, rfl⟩ | ⟨hf, ho, rfl⟩ := execEoc_cases h
    · exact .hold _ s
    · exact .fatal _ s _ hf (by decide) rfl
    · exact .eoc s hf ho
  | abort =>
    obtain ⟨_, rfl⟩ | ⟨hf, _, rfl⟩ | ⟨hf, ho, rfl⟩ := execAbort_cases h
    · exact .hold _ s
    · exact .fatal _ s _ hf (by decide) rfl
    · exact .abort s hf ho
  | close =>
    obtain ⟨_, rfl⟩ | ⟨hf, _, rfl⟩ | ⟨hf, _, _, rfl⟩ | ⟨hf, ho, hc, rfl⟩ := execClose_cases h
    · exact .hold _ s
    · exact .fatal _ s _ hf (by decide) rfl
    · exact .fatal _ s _ hf (by decide) rfl
    · exact .close s hf ho hc
  | dpop =>
    obtain rfl | ⟨e, r, hf, hd, hq, rfl⟩ := execDpop_cases h
    · exact .hold _ s
    · exact .dpop s e r hf hd hq
  | dpush =>
    obtain rfl | ⟨x, hf, hd, hl, rfl⟩ := execDpush_cases h
    · exact .hold _ s
    · exact .dpush s x hf hd hl
  | dclose =>
    obtain rfl | ⟨hf, hd, ho, hq, hc, rfl⟩ := execDclose_cases h
    · exact .hold _ s
    · exact .dclose s hf hd ho hq hc
  | take =>
    obtain rfl | ⟨x, r, hf, hq, rfl⟩ | ⟨hf, hq, hc, rfl⟩ := execTake_cases h
    · exact .hold _ s
    · exact .take s x r hf hq
    · exact .eos s hf hq hc

/-- Every effect that is neither a hold nor a fatal fault is what the operation does. -/
theorem effect_exec {i : Instr} {s t : State} (e : Effect i s t) (h : t.out ≠ .hold) (h' : ∀ c, t.out ≠ .fatal c) :
    exec i s = .next t := by
  cases e
  case hold => exact absurd rfl h
  case fatal => exact absurd rfl (h' _)
  case noise byte _ _ _ =>
    obtain ⟨b, rfl | ⟨rfl, _⟩⟩ := byte <;> simp_all [exec, execBOther, execBStar, inSubmission_open]
  case firstDigit byte _ _ _ _ =>
    rcases byte with rfl | ⟨rfl, rfl⟩ <;> simp_all [exec, execBOther, execBStar, inSubmission_open, digit]
  case mismatch byte _ _ _ _ _ =>
    rcases byte with rfl | ⟨rfl, rfl⟩ <;> simp_all [exec, execBOther, execBStar, inSubmission_open, digit, judge]
  case emit byte _ _ _ _ _ _ _ =>
    rcases byte with rfl | ⟨rfl, rfl⟩ <;>
      simp_all [exec, execBOther, execBStar, inSubmission_open, digit, judge, emit, push, forceIdle]
  case restart => simp_all [exec, execBStart, inSubmission_open]
  case starMark => simp_all [exec, execBStar, inSubmission_open]
  case payload => simp_all [exec, execBOther, inSubmission_open, appendByte]
  case overflow => simp_all [exec, execBOther, inSubmission_open, appendByte]
  case soc => simp_all [exec, execSoc, live]
  case eoc => simp_all [exec, execEoc, inSubmission_open]
  case abort => simp_all [exec, execAbort, inSubmission_open]
  case close => simp_all [exec, execClose, live, closeRawq]
  case dpop => simp_all [exec, execDpop, live, pop]
  case dpush => simp_all [exec, execDpush, live]
  case dclose => simp_all [exec, execDclose, live, pop, closeOutq]
  case take => simp_all [exec, execTake, live, pop]
  case eos => simp_all [exec, execTake, live, pop]

end Sys2Proof.Machine
end

