-- ==== Sys2Proof/Laws/PerInstr.lean ====
section
/-! SUPPORT. The family `TableRow`: the word of a well-formed operation lies in its row of `spec/opcode_table.json`,
that is, it agrees with the row's `match` under the row's `mask` (R91). -/

namespace Sys2Proof.Laws.TableRow

/-- The operation's word lies in its row of the table. -/
def Statement (i : Instr) : Prop := i.wf = true → encode i &&& i.tableMask = i.tableMatch

theorem bStart : Statement .bStart := fun _ => rfl
theorem bStar : Statement .bStar := fun _ => rfl
theorem bOther (b : Byte) : Statement (.bOther b) := fun _ => by revert b; decide
theorem soc : Statement .soc := fun _ => rfl
theorem eoc : Statement .eoc := fun _ => rfl
theorem abort : Statement .abort := fun _ => rfl
theorem close : Statement .close := fun _ => rfl
theorem dpop : Statement .dpop := fun _ => rfl
theorem dpush : Statement .dpush := fun _ => rfl
theorem dclose : Statement .dclose := fun _ => rfl
theorem take : Statement .take := fun _ => rfl

end Sys2Proof.Laws.TableRow
end

