-- ==== Sys2Proof/Laws/Ports.lean ====
section
/-! SUPPORT. The handshakes of R171: an entry moves exactly in a step for which both lines of its side are 1. -/

namespace Sys2Proof.Machine

/-- When a byte completes a matching frame (R128). -/
theorem completesFrame_iff (s : State) (b : Byte) :
    completesFrame s b = true ↔ s.subOpen = true ∧ s.st = .awaitingChecksum ∧
      ∃ c0, s.dbuf = some c0 ∧ verdict s.params s.xacc c0 b = true := by
  unfold completesFrame
  split
  · simp_all
  · simp_all
  · split <;> simp_all

/-- The pop side of RAWQ: `DPOP` takes an entry exactly when `pop_valid` and `pop_ready` are both 1. -/
theorem dpop_iff_handshake {s t : State} (h : exec .dpop s = .next t) :
    t.out ≠ .hold ↔ popValid s.rawq = true ∧ rawPopReady s = true := by
  constructor
  · intro ho
    obtain rfl | ⟨e, r, hf, hd, hq, rfl⟩ := execDpop_cases h
    · exact absurd rfl ho
    · simp [popValid, rawPopReady, isFatal, hf, hd, hq]
  · intro ⟨hv, hr⟩
    obtain ⟨e, r, hq⟩ := List.exists_cons_of_ne_nil (by simpa [popValid] using hv : s.rawq ≠ [])
    simp only [rawPopReady, isFatal, Bool.and_eq_true, Bool.not_eq_true', decide_eq_false_iff_not, not_not,
      Option.isNone_iff_eq_none] at hr
    rw [effect_exec (.dpop s e r hr.1 hr.2 hq) (by simp) (by simp)] at h
    cases h; simp

/-- The push side of OUTQ: `DPUSH` delivers exactly when `push_valid` and `push_ready` are both 1. The premises are the
invariants of R52 and R53. -/
theorem dpush_iff_handshake {s t : State} (hw : withinCapacity s) (hc : closureOrdered s) (h : exec .dpush s = .next t) :
    t.out ≠ .hold ↔ outPushValid s = true ∧ outPushReady s = true := by
  constructor
  · intro ho
    obtain rfl | ⟨x, hf, hd, hl, rfl⟩ := execDpush_cases h
    · exact absurd rfl ho
    · have hopen : s.outqClosed = false := by
        refine Bool.eq_false_iff.2 fun hcl => ?_
        simp [(hc.1 hcl).2.2] at hd
      simp [outPushValid, outPushReady, pushReady, isFatal, hf, hd, hopen, Nat.ne_of_lt hl]
  · intro ⟨hv, hr⟩
    simp only [outPushValid, isFatal, Bool.and_eq_true, Bool.not_eq_true', decide_eq_false_iff_not, not_not] at hv
    obtain ⟨x, hx⟩ := Option.isSome_iff_exists.1 hv.2
    simp only [outPushReady, pushReady, Bool.and_eq_true, decide_eq_true_eq] at hr
    rw [effect_exec (.dpush s x hv.1 hx (Nat.lt_of_le_of_ne hw.2 hr.1)) (by simp) (by simp)] at h
    cases h; simp

/-- The push side of RAWQ: a byte of class OTHER puts an entry into RAWQ exactly when `push_valid` and `push_ready` are both
1. -/
theorem push_iff_handshake {w : PortWord} {s t : State} (hw : carriesOther w = true)
    (h : exec (.bOther (dataField w)) s = .next t) :
    t.rawq ≠ s.rawq ↔ rawPushValid s w = true ∧ rawPushReady s = true := by
  constructor
  · intro hne
    have e := exec_effect h
    clear h
    generalize hi : Instr.bOther (dataField w) = i at e
    cases e
    case emit b c0 byte run opened st dbuf yes open' room =>
      obtain rfl : dataField w = b := by rcases byte with h | ⟨h, _⟩ <;> simp [← hi] at h; exact h
      have hf : completesFrame s (dataField w) = true := (completesFrame_iff _ _).2 ⟨opened, st, c0, dbuf, yes⟩
      simp [rawPushValid, rawPushReady, pushReady, isFatal, hw, hf, run, open', room]
    case dpop => cases hi
    all_goals exact absurd (by simp) hne
  · intro ⟨hv, hr⟩
    simp only [rawPushValid, isFatal, Bool.and_eq_true, Bool.not_eq_true', decide_eq_false_iff_not, not_not] at hv
    obtain ⟨ho, hst, c0, hd, hy⟩ := (completesFrame_iff _ _).1 hv.2
    simp only [rawPushReady, pushReady, Bool.and_eq_true, decide_eq_true_eq, Bool.not_eq_true'] at hr
    rw [effect_exec (.emit _ _ c0 (.inl rfl) s hv.1.1 ho hst hd hy hr.2 hr.1) (by simp) (by simp)] at h
    cases h; simp

/-- `DCLOSE` is the `pop_drained` of RAWQ seen by a D that wants an entry (R167, R186), while OUTQ is open. -/
theorem dclose_iff_drained {s t : State} (h : exec .dclose s = .next t) :
    t.out ≠ .hold ↔ popDrained s.rawqClosed s.rawq = true ∧ rawPopReady s = true ∧ s.outqClosed = false := by
  constructor
  · intro ho
    obtain rfl | ⟨hf, hd, hoc, hq, hc, rfl⟩ := execDclose_cases h
    · exact absurd rfl ho
    · simp [popDrained, rawPopReady, isFatal, hf, hd, hq, hc, hoc]
  · intro ⟨hv, hr, hoc⟩
    simp only [popDrained, Bool.and_eq_true, List.isEmpty_iff] at hv
    simp only [rawPopReady, isFatal, Bool.and_eq_true, Bool.not_eq_true', decide_eq_false_iff_not, not_not,
      Option.isNone_iff_eq_none] at hr
    rw [effect_exec (.dclose s hr.1 hr.2 hoc hv.1 hv.2) (by simp) (by simp)] at h
    cases h; simp

end Sys2Proof.Machine
end

