-- ==== Sys2Proof/Tests/Slice0.lean ====
section
/-! SUPPORT. Small tests: words written out from the spec's encodings, one step each from the vectors of
`spec/95_test_vectors.md`, and for every statement with hypotheses a witness that meets them. -/

open Sys2Proof Sys2Proof.Machine

namespace Sys2Proof.Tests

/-! ## Small states -/

/-- One entry in each queue, payloads of at most two bytes, a one-bit count. -/
def small : Params :=
  { qcapRaw := 1, qcapOut := 1, chunkReset := true, rxUpcase := false, payloadMax := .fin 2, countW := .fin 1 }

/-- The same, with the parser kept between submissions. -/
def carry : Params := { small with chunkReset := false }

/-- A pipeline with a submission open and the parser as given. -/
def parsing (x : ParserState) (p : ByteString) (d : Option Byte) : State :=
  { State.create small with subOpen := true, st := x, pay := p, xacc := xof p, dbuf := d }

/-- A closed pipeline with the given contents. -/
def closing (r : List ByteString) (h : Option Sentence) (o : List Sentence) (oc : Bool) : State :=
  { State.create small with rawqClosed := true, rawq := r, decHold := h, outq := o, outqClosed := oc }

/-- The frame `A` waits for its second checksum byte. -/
def almost : State := parsing .awaitingChecksum [0x41#8] (some 0x34#8)

/-- A Sentence of the one field `A`. -/
def sentA : Sentence := { valid := false, kind := [], data := [[0x41#8]] }

/-- A pipeline with a fatal fault standing. -/
def broken : State := { State.create small with fault := .nestedSubmit }

/-! ## Well-formedness -/

/-- `B.OTHER` takes "any value but 0x24 and 0x2A" (R91): both are ill formed, their neighbours are not. -/
theorem test_wf_refuses_marker_operands :
    Instr.wf (.bOther 0x24#8) = false ∧ Instr.wf (.bOther 0x2A#8) = false ∧ Instr.wf (.bOther 0x23#8) = true ∧
      Instr.wf (.bOther 0x25#8) = true ∧ Instr.wf (.bOther 0x29#8) = true ∧ Instr.wf (.bOther 0x2B#8) = true := by
  decide

/-! ## Decoding, each word written out as agent, op, data (R86 to R91) -/

theorem test_decode_bStart : decode 0b000000100100#12 = .instr .bStart := by decide
theorem test_decode_bStar : decode 0b000000101010#12 = .instr .bStar := by decide
theorem test_decode_bOther_comma : decode 0b000000101100#12 = .instr (.bOther 0x2C#8) := by decide
theorem test_decode_bOther_top : decode 0b000011111111#12 = .instr (.bOther 0xFF#8) := by decide
theorem test_decode_soc : decode 0b000100000000#12 = .instr .soc := by decide
theorem test_decode_eoc : decode 0b001000000000#12 = .instr .eoc := by decide
theorem test_decode_abort : decode 0b001000000001#12 = .instr .abort := by decide
theorem test_decode_close : decode 0b001100000000#12 = .instr .close := by decide
theorem test_decode_dpop : decode 0b010000000000#12 = .instr .dpop := by decide
theorem test_decode_dpush : decode 0b010000000001#12 = .instr .dpush := by decide
theorem test_decode_dclose : decode 0b010000000010#12 = .instr .dclose := by decide
theorem test_decode_take : decode 0b100000000000#12 = .instr .take := by decide

/-- The ends of the reserved ranges of R92 (a). -/
theorem test_decode_illegal_port_words :
    ∀ w ∈ [0x101#12, 0x1FF#12, 0x202#12, 0x2FF#12, 0x301#12, 0x3FF#12], decode w = .illegalPortWord := by decide

/-- The ends of the reserved ranges of R92 (b), and the agent field 0b11. -/
theorem test_decode_no_operation :
    ∀ w ∈ [0x403#12, 0x500#12, 0x7FF#12, 0x801#12, 0xBFF#12, 0xC00#12, 0xFFF#12], decode w = .noOperation := by decide

theorem test_encode_words :
    encode .bStart = 0x024#12 ∧ encode .bStar = 0x02A#12 ∧ encode (.bOther 0x47#8) = 0x047#12 ∧ encode .soc = 0x100#12 ∧
      encode .eoc = 0x200#12 ∧ encode .abort = 0x201#12 ∧ encode .close = 0x300#12 ∧ encode .dpop = 0x400#12 ∧
      encode .dpush = 0x401#12 ∧ encode .dclose = 0x402#12 ∧ encode .take = 0x800#12 := by decide

/-- The table's words, the twelve bits in two bytes; a thirteenth bit is in no event word (R101). -/
theorem test_table_words :
    decodeTableWord 16 0x041 = some (.bOther 0x41#8) ∧ decodeTableWord 12 0x800 = some .take ∧
      decodeTableWord 16 0x1041 = none ∧ decodeTableWord 16 0x101 = none := by decide

/-! ## Checksum and decoder (vectors V-S1, V-S6, V-D5 to V-D18, V-D61, V-D71) -/

theorem test_checksum :
    chk [] = [0x30#8, 0x30#8] ∧ chk [0x41#8, 0x42#8] = [0x30#8, 0x33#8] ∧ chk [0xFF#8] = [0x46#8, 0x46#8] ∧
      chk [0x4A#8] = [0x34#8, 0x41#8] := by decide

theorem test_verdict :
    matchDigits 0x4A#8 0x34#8 0x41#8 = true ∧ matchDigits 0x4A#8 0x34#8 0x61#8 = false ∧
      matchDigits 0x4A#8 0x41#8 0x34#8 = false ∧ verdict { small with rxUpcase := true } 0x6F#8 0x36#8 0x66#8 = true ∧
      verdict small 0x6F#8 0x36#8 0x66#8 = false := by decide

theorem test_upper : [0x61#8, 0x66#8, 0x67#8, 0x41#8, 0x39#8, 0xE1#8].map up =
    [0x41#8, 0x46#8, 0x67#8, 0x41#8, 0x39#8, 0xE1#8] := by decide

/-- `PGGA,1,2` has a header of four bytes. -/
theorem test_decoder_short_header :
    dec [0x50#8, 0x47#8, 0x47#8, 0x41#8, 0x2C#8, 0x31#8, 0x2C#8, 0x32#8] =
      { valid := false, kind := [], data := [[0x50#8, 0x47#8, 0x47#8, 0x41#8], [0x31#8], [0x32#8]] } := by decide

/-- `GPGGA,` has a header of five bytes and an empty last field. -/
theorem test_decoder_valid_header :
    dec [0x47#8, 0x50#8, 0x47#8, 0x47#8, 0x41#8, 0x2C#8] =
      { valid := true, kind := [0x47#8, 0x47#8, 0x41#8], data := [[0x47#8, 0x50#8, 0x47#8, 0x47#8, 0x41#8], []] } := by
  decide

/-! ## One step of each operation -/

/-- V-D26: a start marker after one checksum byte. -/
theorem test_bStart_discards :
    let t := doOp .bStart almost
    t.st = .capturing ∧ t.pay = [] ∧ t.xacc = 0x00#8 ∧ t.dbuf = none := by decide

/-- V-D24. -/
theorem test_bStar_ends_payload :
    let t := doOp .bStar (parsing .capturing [0x41#8] none)
    t.st = .awaitingChecksum ∧ t.pay = [0x41#8] ∧ t.dbuf = none := by decide

/-- V-D28: a second checksum byte `'*'` fails. -/
theorem test_bStar_as_digit : (doOp .bStar almost).st = .idle ∧ (doOp .bStar almost).rawq = [] := by decide

/-- V-D30, V-D57: the frame is pushed and counted. -/
theorem test_bOther_emits :
    let t := doOp (.bOther 0x31#8) almost
    t.rawq = [[0x41#8]] ∧ t.vcnt = 1 ∧ t.st = .idle ∧ t.xacc = 0x00#8 := by decide

/-- P4 row 11: held by a full RAWQ, `'1'` leaves the parser and the queue. -/
theorem test_bOther_held_by_full_rawq :
    let t := doOp (.bOther 0x31#8) { almost with rawq := [[0x42#8]] }
    t.out = .hold ∧ t.rawq = [[0x42#8]] ∧ t.dbuf = some 0x34#8 := by decide

/-- V-D93. -/
theorem test_soc_clears_count :
    (doOp .soc { State.reset with vcnt := 3 }).vcnt = 0 ∧ (doOp .soc State.reset).subOpen = true := by decide

/-- V-D120: the test on the closed queue comes first. -/
theorem test_soc_after_close : (doOp .soc (closing [] none [] false)).fault = .postCloseSubmit := by decide

/-- V-D91 with `CHUNK_RESET` true and false. -/
theorem test_eoc_returns_count :
    let s := { parsing .capturing [0x58#8] none with vcnt := 1 }
    (doOp .eoc s).out = .result 1 false ∧ (doOp .eoc s).st = .idle ∧
      (doOp .eoc { s with params := carry }).pay = [0x58#8] := by decide

/-- V-D92. -/
theorem test_abort_returns_error :
    let t := doOp .abort { parsing .capturing [0x58#8] none with vcnt := 1 }
    t.out = .result 1 true ∧ t.subOpen = false ∧ t.fault = .noFault := by decide

/-- V-D94. -/
theorem test_close_keeps_rawq :
    let t := doOp .close { State.reset with rawq := [[0x41#8]] }
    t.rawqClosed = true ∧ t.rawq = [[0x41#8]] := by decide

/-- R183 case 2 (`60_exceptions.md`, code 5). -/
theorem test_close_twice : (doOp .close (closing [] none [] false)).fault = .doubleClose := by decide

/-- V-D85 and V-D97: a closed RAWQ is drained in order. -/
theorem test_dpop_takes_head :
    let t := doOp .dpop (closing [[0x41#8]] none [] false)
    t.decHold = some sentA ∧ t.rawq = [] := by decide

/-- V-D96. -/
theorem test_dpop_holds_while_occupied : (doOp .dpop (closing [[0x41#8]] (some sentA) [] false)).out = .hold := by decide

/-- V-D100 and V-D99. -/
theorem test_dpush_delivers :
    (doOp .dpush (closing [] (some sentA) [] false)).outq = [sentA] ∧
      (doOp .dpush (closing [] (some sentA) [sentA] false)).out = .hold := by decide

/-- V-D104 and V-D102. -/
theorem test_dclose_closes :
    (doOp .dclose (closing [] none [sentA] false)).outqClosed = true ∧
      (doOp .dclose (closing [[0x41#8]] none [] false)).outqClosed = false := by decide

/-- V-D108 and V-D109. -/
theorem test_take_delivers_then_ends :
    (doOp .take (closing [] none [sentA] true)).out = .sentence sentA ∧
      (doOp .take (closing [] none [] true)).out = .eos := by decide

/-! ## Steps -/

/-- V-D90 as the first step after reset; the word leaves the port. -/
theorem test_step_soc_from_reset :
    let t := after (step (State.reset.withFetchWord 16 0x100)) State.reset
    t.subOpen = true ∧ t.out = .done ∧ t.pport = [] ∧ t.sched = [] := by decide

/-- A reserved P-port word (`60_exceptions.md`, code 6) and a word that spells no operation (R92). -/
theorem test_step_reserved_words :
    (after (step (State.reset.withFetchWord 16 0x101)) State.reset).fault = .illegalWord ∧
      step (State.reset.withFetchWord 16 0x403) = .refused (.spellsNoOperation 0x403#12) :=
  ⟨by decide, rfl⟩

/-- P4 row 11 as a step: a held word stays on the port. -/
theorem test_step_hold_keeps_word :
    let s := { almost with rawq := [[0x42#8]] }
    (after (step (s.withFetchWord 16 0x031)) s).pport = [0x031#10] := by decide

/-- V-D43 and V-D44: a start marker after one checksum byte, and directly after the `'*'`. -/
theorem test_frames_restart_in_checksum :
    framesIn small [0x24#8, 0x41#8, 0x2A#8, 0x34#8, 0x24#8, 0x42#8, 0x2A#8, 0x34#8, 0x32#8] = [[0x42#8]] ∧
      framesIn small [0x24#8, 0x41#8, 0x2A#8, 0x24#8, 0x42#8, 0x2A#8, 0x34#8, 0x32#8] = [[0x42#8]] := by decide

/-- The lines of R171 in P4 row 26: every queue full, D and P hold entries, nobody takes one. -/
theorem test_handshake_lines :
    let s := { almost with rawq := [[0x43#8]], decHold := some sentA, outq := [sentA] }
    rawPushValid s 0x031#10 = true ∧ rawPushReady s = false ∧ rawPopReady s = false ∧ outPushValid s = true ∧
      outPushReady s = false ∧ popValid s.outq = true ∧ outPopReady (s.withFetchWord 16 0x800) = true ∧
      pValid (s.withFetchWord 16 0x031) = true ∧ pWord (s.withFetchWord 16 0x031) = some 0x031#10 := by decide

/-- V-D40 and V-D55: the frames of a chunk, a restart and an overflow in them. -/
theorem test_frames_of_chunk :
    framesIn small [0x24#8, 0x24#8, 0x41#8, 0x2A#8, 0x34#8, 0x31#8] = [[0x41#8]] ∧
      framesIn small [0x24#8, 0x41#8, 0x42#8, 0x43#8, 0x2A#8, 0x34#8, 0x30#8] = [] := by decide

/-- Reset leaves the phase Fatal and keeps the parameters (R241, R242). -/
theorem test_recreate : (recreate broken).fault = .noFault ∧ (recreate broken).params = small := by decide

/-! ## Witnesses: states and operands that meet the hypotheses of the statements, clause by clause -/

theorem witness_DecodeOfEncode : Instr.wf (.bOther 0x00#8) = true ∧ Instr.wf (.bOther 0xFF#8) = true := by decide

theorem witness_EncodeOfDecode : decode 0x0FF#12 = .instr (.bOther 0xFF#8) ∧ decode 0x402#12 = .instr .dclose := by decide

theorem witness_TableWordsDecode : (0x23#8 : Byte) ≠ 0x24#8 ∧ (0x23#8 : Byte) ≠ 0x2A#8 := by decide

theorem witness_StepRunsDecodedOperation :
    (fetchWord (State.reset.withFetchWord 16 0x0FF) = some 0x0FF#12 ∧ decode 0x0FF#12 = .instr (.bOther 0xFF#8)) ∧
      (fetchWord (State.reset.withFetchWord 16 0x800) = some 0x800#12 ∧ decode 0x800#12 = .instr .take) := by decide

theorem witness_ReservedPortWordIsFatal :
    let s := State.reset.withFetchWord 16 0x3FF
    nextTurn s = .p ∧ s.pport.head? = some 0x3FF#10 ∧ decodeP 0x3FF#10 = .illegalPortWord ∧ s.fault = .noFault := by decide

theorem witness_TurnsWithoutOperation :
    (fetchWord (State.reset.withFetchWord 16 0x403) = some 0x403#12 ∧ decode 0x403#12 = .noOperation) ∧
      (nextTurn { State.reset with sched := [.p] } = .p ∧ State.reset.pport = []) := by decide

theorem witness_UnlaidTurnIsFree : State.reset.sched = [] := by decide

theorem witness_StartByteRestarts :
    (almost.fault = .noFault ∧ almost.subOpen = true) ∧ (State.reset.fault = .noFault ∧ State.reset.subOpen = false) := by
  decide

theorem witness_StarByteEffect :
    (∀ s ∈ [parsing .idle [] none, parsing .capturing [] none, parsing .awaitingChecksum [] none, almost],
      s.fault = .noFault ∧ s.subOpen = true) ∧
    (parsing .idle [] none).st = .idle ∧ (parsing .capturing [] none).st = .capturing ∧
    ((parsing .awaitingChecksum [] none).st = .awaitingChecksum ∧ (parsing .awaitingChecksum [] none).dbuf = none) ∧
    (almost.st = .awaitingChecksum ∧ almost.dbuf = some 0x34#8) := by decide

/-- Room for one byte more, and none left. -/
theorem witness_OtherByteIsNoiseOrPayload :
    (∀ s ∈ [parsing .idle [] none, parsing .capturing [0x41#8] none, parsing .capturing [0x41#8, 0x42#8] none],
      s.fault = .noFault ∧ s.subOpen = true) ∧
    (parsing .idle [] none).st = .idle ∧
    ((parsing .capturing [0x41#8] none).st = .capturing ∧ belowLimit small.payloadMax [0x41#8].length = true) ∧
    ((parsing .capturing [0x41#8, 0x42#8] none).st = .capturing ∧
      belowLimit small.payloadMax [0x41#8, 0x42#8].length = false) := by decide

theorem witness_DigitKeptOrFrameDropped :
    (∀ s ∈ [parsing .awaitingChecksum [] none, almost],
      s.fault = .noFault ∧ s.subOpen = true ∧ s.st = .awaitingChecksum) ∧
    (parsing .awaitingChecksum [] none).dbuf = none ∧
    (almost.dbuf = some 0x34#8 ∧ verdict almost.params almost.xacc 0x34#8 0x30#8 = false) := by decide

/-- RAWQ closed (a state no run reaches), full, and with its last place free. -/
theorem witness_MatchingFrameIsEmitted :
    (∀ s ∈ [{ almost with rawqClosed := true }, { almost with rawq := [[]] }, almost],
      s.fault = .noFault ∧ s.subOpen = true ∧ s.st = .awaitingChecksum ∧ s.dbuf = some 0x34#8 ∧
        verdict s.params s.xacc 0x34#8 0x31#8 = true) ∧
    (almost.rawqClosed = false ∧ ([[]] : List ByteString).length = almost.params.qcapRaw) ∧
    almost.rawq.length ≠ almost.params.qcapRaw := by decide

theorem witness_OutsideSubmissionIsFatal :
    State.reset.fault = .noFault ∧ State.reset.subOpen = false ∧
      ∀ i ∈ [Instr.bStart, .bStar, .bOther 0x00#8, .eoc, .abort],
        i = .bStart ∨ i = .bStar ∨ (∃ b, i = .bOther b) ∨ i = .eoc ∨ i = .abort := by
  refine ⟨rfl, rfl, ?_⟩
  simp

theorem witness_SocOpensSubmission :
    (∀ s ∈ [closing [] none [] false, almost, State.create small, State.create carry], s.fault = .noFault) ∧
    (closing [] none [] false).rawqClosed = true ∧ (almost.rawqClosed = false ∧ almost.subOpen = true) ∧
    ((State.create small).rawqClosed = false ∧ (State.create small).subOpen = false ∧ small.chunkReset = true) ∧
    ((State.create carry).rawqClosed = false ∧ (State.create carry).subOpen = false ∧ carry.chunkReset = false) := by
  decide

theorem witness_EocReturnsCount :
    (State.reset.fault = .noFault ∧ State.reset.subOpen = false) ∧
    (almost.fault = .noFault ∧ almost.subOpen = true ∧ almost.params.chunkReset = true) ∧
    ({ almost with params := carry }.fault = .noFault ∧ { almost with params := carry }.subOpen = true ∧
      { almost with params := carry }.params.chunkReset = false) := by decide

theorem witness_AbortReturnsCountAndError :
    (State.reset.fault = .noFault ∧ State.reset.subOpen = false) ∧
    (almost.fault = .noFault ∧ almost.subOpen = true ∧ almost.params.chunkReset = true) ∧
    ({ almost with params := carry }.subOpen = true ∧ { almost with params := carry }.params.chunkReset = false) := by
  decide

theorem witness_CloseClosesRawq :
    (almost.fault = .noFault ∧ almost.subOpen = true) ∧
    ((closing [] none [] false).fault = .noFault ∧ (closing [] none [] false).subOpen = false ∧
      (closing [] none [] false).rawqClosed = true) ∧
    (State.reset.fault = .noFault ∧ State.reset.subOpen = false ∧ State.reset.rawqClosed = false) := by decide

theorem witness_DpopDecodesHead :
    ((closing [[0x41#8]] none [] false).fault = .noFault ∧ (closing [[0x41#8]] none [] false).decHold = none ∧
      (closing [[0x41#8]] none [] false).rawq = [0x41#8] :: []) ∧
    ((closing [[0x41#8]] (some sentA) [] false).fault = .noFault ∧
      (closing [[0x41#8]] (some sentA) [] false).decHold ≠ none) ∧
    (State.reset.fault = .noFault ∧ State.reset.rawq = []) := by decide

/-- The last place of OUTQ free, and none. -/
theorem witness_DpushDelivers :
    (∀ s ∈ [closing [] (some sentA) [] false, State.reset, closing [] (some sentA) [sentA] false], s.fault = .noFault) ∧
    ((closing [] (some sentA) [] false).decHold = some sentA ∧
      (closing [] (some sentA) [] false).outq.length < small.qcapOut) ∧
    State.reset.decHold = none ∧ ¬ (closing [] (some sentA) [sentA] false).outq.length < small.qcapOut := by decide

theorem witness_DcloseClosesOutq :
    ((closing [] none [] false).fault = .noFault ∧ (closing [] none [] false).rawqClosed = true ∧
      (closing [] none [] false).rawq = [] ∧ (closing [] none [] false).decHold = none ∧
      (closing [] none [] false).outqClosed = false) ∧
    (∀ s ∈ [State.reset, closing [[]] none [] false, closing [] (some sentA) [] false, closing [] none [] true],
      s.fault = .noFault) ∧
    State.reset.rawqClosed = false ∧ (closing [[]] none [] false).rawq ≠ [] ∧
    (closing [] (some sentA) [] false).decHold ≠ none ∧ (closing [] none [] true).outqClosed = true := by decide

theorem witness_TakeReadsOutq :
    ((closing [] none [sentA] true).fault = .noFault ∧ (closing [] none [sentA] true).outq = sentA :: []) ∧
    ((closing [] none [] true).fault = .noFault ∧ (closing [] none [] true).outq = [] ∧ (closing [] none [] true).outqClosed = true) ∧
    (State.reset.fault = .noFault ∧ State.reset.outq = [] ∧ State.reset.outqClosed = false) := by decide

theorem witness_ConsumerPortSignals :
    let s := closing [] none [sentA] true
    s.fault = .noFault ∧ exec .take s = .next (doOp .take s) := ⟨rfl, rfl⟩

theorem witness_FatalStopsEveryAgent : broken.fault ≠ .noFault := by decide

theorem witness_FatalStepKeepsEverything :
    let s := broken.withFetchWord 16 0x100
    s.fault ≠ .noFault ∧ step s = .next (after (step s) s) := ⟨by decide, rfl⟩

theorem witness_HoldWritesNothing :
    exec .dpop State.reset = .next (doOp .dpop State.reset) ∧ (doOp .dpop State.reset).out = .hold := ⟨rfl, rfl⟩

theorem witness_FatalEntryWritesOnlyFault :
    exec .eoc State.reset = .next (doOp .eoc State.reset) ∧ (doOp .eoc State.reset).out = .fatal .outsideSubmission :=
  ⟨rfl, rfl⟩

theorem witness_ProducerHeldOnlyByFullRawq :
    let s := { almost with rawq := [[]] }
    Instr.agent (.bOther 0x31#8) = .p ∧ s.fault = .noFault ∧
      exec (.bOther 0x31#8) s = .next (doOp (.bOther 0x31#8) s) ∧ (doOp (.bOther 0x31#8) s).out = .hold := ⟨rfl, rfl, rfl, rfl⟩

theorem witness_PortReadyIsNoHold :
    let s := { almost with rawq := [[]] }
    decodeP 0x031#10 = .instr (.bOther 0x31#8) ∧ exec (.bOther 0x31#8) s = .next (doOp (.bOther 0x31#8) s) ∧
      pReady s 0x031#10 = false := ⟨rfl, rfl, rfl⟩

theorem witness_AtMostOneDecodeStep :
    let s := closing [[0x41#8]] none [] false
    Instr.agent .dpop = .d ∧ exec .dpop s = .next (doOp .dpop s) ∧ (doOp .dpop s).out ≠ .hold := ⟨rfl, rfl, by decide⟩

theorem witness_EnablednessTable :
    closureOrdered State.reset ∧ State.reset.fault = .noFault ∧ exec .soc State.reset = .next (doOp .soc State.reset) ∧
      fatalFor .soc State.reset = none ∧ fatalFor .eoc State.reset = some .outsideSubmission :=
  ⟨⟨by decide, by decide⟩, rfl, rfl, rfl, rfl⟩

theorem witness_FrameOfDataBytes : exec .bStar almost = .next (doOp .bStar almost) := rfl

theorem witness_FrameOfSubmissionWords :
    exec .close State.reset = .next (doOp .close State.reset) ∧ carry.chunkReset = false := ⟨rfl, rfl⟩

theorem witness_FrameOfDecodeAndTake :
    exec .dclose (closing [] none [] false) = .next (doOp .dclose (closing [] none [] false)) := rfl

theorem witness_FrameOfInputsAndFault :
    exec .soc State.reset = .next (doOp .soc State.reset) ∧ ∀ c, (doOp .soc State.reset).out ≠ .fatal c := by
  refine ⟨rfl, fun c => ?_⟩
  cases c <;> decide

/-- A state that meets every invariant, in the middle of a frame, with something in each place, and a step from it. -/
theorem witness_StepKeepsInvariants :
    let s := { almost with rawq := [[0x41#8]], decHold := some sentA, outq := [sentA] }
    let w := s.withFetchWord 16 0x031
    Invariants w ∧ step w = .next (after (step w) w) := by
  have payload : payloadOk small [0x41#8] := ⟨by decide, by decide⟩
  have sentence : sentA = dec [0x41#8] := by decide
  refine ⟨⟨nofun, ⟨by decide, by decide⟩, nofun, nofun, ⟨by decide, by decide⟩, ⟨by decide, ?_, ?_, ?_⟩, ⟨nofun, nofun⟩, ?_⟩, rfl⟩
  · intro e he
    cases List.mem_singleton.1 (show e ∈ [[0x41#8]] from he)
    exact payload
  · intro x hx
    cases Option.some.inj (show some sentA = some x from hx)
    exact ⟨_, sentence, payload⟩
  · intro x hx
    cases List.mem_singleton.1 (show x ∈ [sentA] from hx)
    exact ⟨_, sentence, payload⟩
  · show (0 : Nat) < 2 ^ 1
    decide

theorem witness_StepNeverReopens :
    let s := (closing [] none [] true).withFetchWord 16 0x800
    step s = .next (after (step s) s) ∧ s.rawqClosed = true ∧ s.outqClosed = true ∧
      (broken.withFetchWord 16 0x800).fault ≠ .noFault := ⟨rfl, rfl, rfl, by decide⟩

theorem witness_PhasesNeverGoBack :
    let s := (closing [] none [] false).withFetchWord 16 0x402
    closureOrdered s ∧ step s = .next (after (step s) s) := ⟨⟨by decide, by decide⟩, rfl⟩

theorem witness_DoneOnlyTakesEos :
    let s := closing [] none [] true
    isDone s = true ∧ exec .take s = .next (doOp .take s) := ⟨by decide, rfl⟩

theorem witness_InFlightIsBounded : withinCapacity (closing [[0x41#8]] (some sentA) [sentA] false) :=
  ⟨by decide, by decide⟩

theorem witness_OnlyVerifiedFramesAreEmitted :
    exec (.bOther 0x31#8) almost = .next (doOp (.bOther 0x31#8) almost) ∧
      almost.rawq.length < (doOp (.bOther 0x31#8) almost).rawq.length := ⟨rfl, by decide⟩

theorem witness_QueuesAreFifo : exec .take (closing [] none [sentA] true) =
    .next (doOp .take (closing [] none [sentA] true)) := rfl

theorem witness_CountsAddUp : State.reset.params.countW = .inf := rfl

theorem witness_EosMeansDrained :
    let s := closing [] none [] true
    closureOrdered s ∧ exec .take s = .next (doOp .take s) ∧ (doOp .take s).out = .eos :=
  ⟨⟨by decide, by decide⟩, rfl, rfl⟩

theorem witness_ClosedPipelineDrains :
    let s := closing [[0x41#8]] (some sentA) [sentA] false
    closureOrdered s ∧ s.params.wf = true ∧ s.fault = .noFault ∧ s.rawqClosed = true :=
  ⟨⟨by decide, by decide⟩, by decide, rfl, rfl⟩

/-- One frame for the one free place of RAWQ, in both modes. -/
theorem witness_SubmissionYieldsItsFrames :
    ∀ p ∈ [small, carry],
      let s := State.create p
      s.fault = .noFault ∧ s.subOpen = false ∧ s.rawqClosed = false ∧ (s.params.chunkReset = true ∨ s.st = .idle) ∧
        s.rawq.length + (framesIn s.params (frame [0x41#8])).length ≤ s.params.qcapRaw := by decide

/-- A frame cut in two (P3): the second chunk completes it when the parser is kept. -/
theorem witness_ChunkBoundaries :
    (∀ p ∈ [small, carry],
      (State.create p).fault = .noFault ∧ (State.create p).subOpen = false ∧ (State.create p).rawqClosed = false) ∧
    (small.chunkReset = true ∧
      (framesIn small [0x24#8] ++ framesIn small (frame [0x41#8])).length ≤ small.qcapRaw) ∧
    (carry.chunkReset = false ∧ (State.create carry).st = .idle ∧
      (framesIn carry ([0x24#8, 0x41#8] ++ [0x2A#8, 0x34#8, 0x31#8])).length ≤ carry.qcapRaw) := by decide

/-- A payload at the bound of its length, and a pair of digits that fails. -/
theorem witness_FramesOfChunk :
    dollarByte ∉ [0x41#8, 0x2A#8] ∧
    (markerFree [0x41#8, 0x42#8] = true ∧ withinLimit small.payloadMax [0x41#8, 0x42#8].length = true) ∧
    (markerFree [0x41#8] = true ∧ verdict small (xof [0x41#8]) 0x34#8 0x30#8 = false) := by decide

theorem witness_AgentsCommute :
    let s := { almost with outq := [sentA] }
    withinCapacity s ∧ closureOrdered s ∧ Instr.agent (.bOther 0x31#8) ≠ Instr.agent .take ∧
      taken (doOp (.bOther 0x31#8) s).out = true ∧ taken (doOp .take s).out = true :=
  ⟨⟨by decide, by decide⟩, ⟨by decide, by decide⟩, by decide, by decide, by decide⟩

theorem witness_XofLaws : [0x41#8, 0x42#8].Perm [0x42#8, 0x41#8] := by decide

theorem witness_VerdictAcceptsOnlyDigits :
    (verdict small 0x6F#8 0x36#8 0x46#8 = true ∧ small.rxUpcase = false) ∧
      ({ small with rxUpcase := true }.rxUpcase = true ∧ [0x36#8, 0x66#8] = renderLower 0x6F#8 ∧
        verdict { small with rxUpcase := true } 0x6F#8 0x36#8 0x66#8 = true) := by decide

/-- A header of five bytes, and an empty payload. -/
theorem witness_DecodedSentence :
    (dec [0x47#8, 0x50#8, 0x47#8, 0x47#8, 0x41#8]).valid = true ∧ (dec []).valid = false := by decide

theorem witness_FieldsAreClean :
    markerFree [0x41#8, 0x2C#8] = true ∧ [0x41#8] ∈ (dec [0x41#8, 0x2C#8]).data ∧ (0x41#8 : Byte) ∈ [0x41#8] := by decide

end Sys2Proof.Tests
end

section
/-! PROOFS. The scope: what a step runs, and what a hold leaves (R15, R18, R19, R86). -/

namespace Sys2Proof.Machine

/-! ## Which operation a step runs -/

/-- A turn whose word decodes to an operation tries that operation, with the turn used up (R18, R86). -/
theorem step_of_decode {s : State} {w : EventWord} {i : Instr} (hw : fetchWord s = some w)
    (hd : decode w = .instr i) : step s = settle w (exec i (takeTurn s)) := by
  simp only [step, hw, hd]

/-- Settles O5, from the decoding branch of `step` and what `settle` makes of a next state. -/
theorem stepRunsDecodedOperation : Obligations.StepRunsDecodedOperation := by
  intro s w i hw hd
  exact ⟨step_of_decode hw hd, settle_next w⟩

/-! ## What a hold leaves -/

/-- Among the effects only the hold shows `hold`, and it writes the output alone (R15, R19). -/
theorem effect_eq_of_hold {i : Instr} {s t : State} (e : Effect i s t) (ht : t.out = .hold) :
    t = { s with out := .hold } := by
  cases e with
  | hold => rfl
  | _ => cases ht

/-- Settles O27, since every next state of an operation is one of its effects. -/
theorem holdWritesNothing : Obligations.HoldWritesNothing :=
  fun _ _ _ h ht => effect_eq_of_hold (exec_effect h) ht

end Sys2Proof.Machine
end

section
/-! PROOFS. The frames of the operations, register by register, and the count law (R34, R55, R195). -/

namespace Sys2Proof.Machine

/-! ## Every operation answers a next state (R19, R131) -/

theorem live_next {s : State} {r : Res} (h : ∃ t, r = .next t) : ∃ t, live s r = .next t := by
  unfold live
  split
  · exact h
  · exact ⟨_, rfl⟩

theorem inSubmission_next {s : State} {r : Res} (h : ∃ t, r = .next t) : ∃ t, inSubmission s r = .next t := by
  refine live_next ?_
  split
  · exact h
  · exact ⟨_, rfl⟩

theorem judge_next (c0 c1 : Byte) (s : State) : ∃ t, judge c0 c1 s = .next t := by
  unfold judge
  split
  · cases emit s <;> exact ⟨_, rfl⟩
  · exact ⟨_, rfl⟩

theorem digit_next (b : Byte) (s : State) : ∃ t, digit b s = .next t := by
  unfold digit
  cases s.dbuf with
  | none => exact ⟨_, rfl⟩
  | some c0 => exact judge_next c0 b s

/-- No meaning faults or refuses: the outcomes of R19 are next states. -/
theorem exec_next (i : Instr) (s : State) : ∃ t, exec i s = .next t := by
  cases i with
  | bStart | eoc | abort => exact inSubmission_next ⟨_, rfl⟩
  | bStar =>
    refine inSubmission_next ?_
    cases s.st with
    | idle | capturing => exact ⟨_, rfl⟩
    | awaitingChecksum => exact digit_next starByte s
  | bOther b =>
    refine inSubmission_next ?_
    cases s.st with
    | idle | capturing => exact ⟨_, rfl⟩
    | awaitingChecksum => exact digit_next b s
  | soc | close =>
    refine live_next ?_
    split
    · exact ⟨_, rfl⟩
    · split <;> exact ⟨_, rfl⟩
  | dpop =>
    refine live_next ?_
    cases s.decHold with
    | none => cases pop s.rawqClosed s.rawq <;> exact ⟨_, rfl⟩
    | some x => exact ⟨_, rfl⟩
  | dpush =>
    refine live_next ?_
    cases s.decHold with
    | none => exact ⟨_, rfl⟩
    | some x => dsimp only; split <;> exact ⟨_, rfl⟩
  | dclose =>
    refine live_next ?_
    cases s.decHold with
    | none =>
      dsimp only
      split
      · exact ⟨_, rfl⟩
      · cases pop s.rawqClosed s.rawq <;> exact ⟨_, rfl⟩
    | some x => exact ⟨_, rfl⟩
  | take =>
    refine live_next ?_
    cases pop s.outqClosed s.outq <;> exact ⟨_, rfl⟩

/-- Trying an operation has one of its effects. -/
theorem doOp_effect (i : Instr) (s : State) : Effect i s (doOp i s) := by
  obtain ⟨t, h⟩ := exec_next i s
  rw [doOp, h, after_next]
  exact exec_effect h

/-! ## Which operations write a register (R55)

One lemma per register: an operation that is none of its writers leaves it. -/

/-- The operations that carry a byte of data to the parser (R122 to R124). -/
def dataByteOp (i : Instr) : Prop := i = .bStart ∨ i = .bStar ∨ ∃ b, i = .bOther b

theorem dataByteOp_of_digitOp {i : Instr} {b : Byte} (h : digitOp i b) : dataByteOp i := by
  obtain rfl | ⟨rfl, _⟩ := h
  · exact .inr (.inr ⟨b, rfl⟩)
  · exact .inr (.inl rfl)

/-- `'*'` is no digit character, so it never completes a frame (R83, R114, R123). -/
theorem verdict_starByte (p : Params) (x c0 : Byte) : verdict p x c0 starByte = false := by
  have hne : starByte ≠ hexUp (loNibble x) := fun h => by
    have plain := (hexUp_digit (loNibble x)).1
    rw [← h] at plain
    exact absurd plain (by decide)
  have hup : up starByte = starByte := by decide
  simp [verdict, matchDigits, hup, hne]

/-- So the byte that completes a frame is of class OTHER. -/
theorem bOther_of_verdict {i : Instr} {b c0 x : Byte} {p : Params} (byte : digitOp i b)
    (yes : verdict p x c0 b = true) : i = .bOther b := by
  obtain rfl | ⟨rfl, rfl⟩ := byte
  · rfl
  · rw [verdict_starByte] at yes; cases yes

section Writers

variable {i : Instr} {s t : State}

theorem effect_subOpen (e : Effect i s t) (hsoc : i ≠ .soc) (heoc : i ≠ .eoc) (habort : i ≠ .abort) :
    t.subOpen = s.subOpen := by
  cases e with
  | soc => exact absurd rfl hsoc
  | eoc => exact absurd rfl heoc
  | abort => exact absurd rfl habort
  | _ => rfl

theorem effect_rawqClosed (e : Effect i s t) (hclose : i ≠ .close) : t.rawqClosed = s.rawqClosed := by
  cases e with
  | close => exact absurd rfl hclose
  | soc | eoc | abort => simp
  | _ => rfl

theorem effect_decHold (e : Effect i s t) (hdpop : i ≠ .dpop) (hdpush : i ≠ .dpush) : t.decHold = s.decHold := by
  cases e with
  | dpop => exact absurd rfl hdpop
  | dpush => exact absurd rfl hdpush
  | soc | eoc | abort => simp
  | _ => rfl

theorem effect_outq (e : Effect i s t) (hdpush : i ≠ .dpush) (htake : i ≠ .take) : t.outq = s.outq := by
  cases e with
  | dpush => exact absurd rfl hdpush
  | take => exact absurd rfl htake
  | soc | eoc | abort => simp
  | _ => rfl

theorem effect_outqClosed (e : Effect i s t) (hdclose : i ≠ .dclose) : t.outqClosed = s.outqClosed := by
  cases e with
  | dclose => exact absurd rfl hdclose
  | soc | eoc | abort => simp
  | _ => rfl

/-- RAWQ is appended to by a byte of class OTHER and shortened by `DPOP` (R36). -/
theorem effect_rawq (e : Effect i s t) (hother : ∀ b, i ≠ .bOther b) (hdpop : i ≠ .dpop) : t.rawq = s.rawq := by
  cases e with
  | emit _ b _ byte _ _ _ _ _ yes => exact absurd (bOther_of_verdict byte yes) (hother b)
  | dpop => exact absurd rfl hdpop
  | soc | eoc | abort => simp
  | _ => rfl

/-- The count is cleared by `SOC` and written with RAWQ by the byte that completes a frame (R34). -/
theorem effect_vcnt (e : Effect i s t) (hother : ∀ b, i ≠ .bOther b) (hsoc : i ≠ .soc) : t.vcnt = s.vcnt := by
  cases e with
  | emit _ b _ byte _ _ _ _ _ yes => exact absurd (bOther_of_verdict byte yes) (hother b)
  | soc => exact absurd rfl hsoc
  | eoc | abort => simp
  | _ => rfl

/-- `st`, `pay`, `xacc` and `dbuf` are written by the data bytes and, with `CHUNK_RESET`, at the ends of a submission. -/
theorem effect_parser (e : Effect i s t) (hbyte : ¬ dataByteOp i)
    (hend : i = .soc ∨ i = .eoc ∨ i = .abort → s.params.chunkReset = false) :
    t.st = s.st ∧ t.pay = s.pay ∧ t.xacc = s.xacc ∧ t.dbuf = s.dbuf := by
  cases e with
  | restart => exact absurd (.inl rfl) hbyte
  | starMark => exact absurd (.inr (.inl rfl)) hbyte
  | payload b | overflow b => exact absurd (.inr (.inr ⟨b, rfl⟩)) hbyte
  | firstDigit _ _ byte | mismatch _ _ _ byte | emit _ _ _ byte => exact absurd (dataByteOp_of_digitOp byte) hbyte
  | soc | eoc | abort => simp [chunkEnd_keep, hend]
  | _ => exact ⟨rfl, rfl, rfl, rfl⟩

/-- Only operations of P raise a fatal fault (R215). -/
theorem effect_fault (e : Effect i s t) (hp : i.agent ≠ .p) : t.fault = s.fault := by
  cases e with
  | fatal _ _ _ _ _ agent => exact absurd agent hp
  | soc | eoc | abort => simp
  | _ => rfl

theorem effect_params (e : Effect i s t) : t.params = s.params := by
  cases e with
  | soc | eoc | abort => simp
  | _ => rfl

end Writers

/-! ## The frames of the operations

Each frame is read off the lemmas above: `other` says that the operation is none of a register's writers. -/

/-- Settles O33: of these registers a data byte writes RAWQ and the count alone, and those only when of class OTHER. -/
theorem frameOfDataBytes : Obligations.FrameOfDataBytes := by
  intro i s t hi h
  have e := exec_effect h
  have other {j : Instr} (hj : ¬ (j = .bStart ∨ j = .bStar ∨ ∃ b, j = .bOther b)) : i ≠ j :=
    fun hij => hj (hij ▸ hi)
  refine ⟨effect_subOpen e (other (by simp)) (other (by simp)) (other (by simp)), effect_rawqClosed e (other (by simp)),
    effect_decHold e (other (by simp)) (other (by simp)), effect_outq e (other (by simp)) (other (by simp)),
    effect_outqClosed e (other (by simp)), fun hmark => ?_⟩
  have notOther : ∀ b, i ≠ .bOther b := by rcases hmark with rfl | rfl <;> nofun
  exact ⟨effect_rawq e notOther (other (by simp)), effect_vcnt e notOther (other (by simp))⟩

/-- Settles O34: the four words write `sub_open`, `rawq_closed` and the count as each is listed, and the parser only to
force it to Idle at the ends of a submission. -/
theorem frameOfSubmissionWords : Obligations.FrameOfSubmissionWords := by
  intro i s t hi h
  have e := exec_effect h
  have other {j : Instr} (hj : ¬ (j = .soc ∨ j = .eoc ∨ j = .abort ∨ j = .close)) : i ≠ j :=
    fun hij => hj (hij ▸ hi)
  have notByte : ¬ dataByteOp i := by
    rintro (rfl | rfl | ⟨b, rfl⟩) <;> exact other (by simp) rfl
  refine ⟨effect_rawq e (fun b => other (by simp)) (other (by simp)),
    effect_decHold e (other (by simp)) (other (by simp)), effect_outq e (other (by simp)) (other (by simp)),
    effect_outqClosed e (other (by simp)), effect_rawqClosed e,
    effect_vcnt e (fun b => other (by simp)), fun hkeep => effect_parser e notByte fun hend => ?_, ?_⟩
  · exact hkeep.resolve_left (by rcases hend with rfl | rfl | rfl <;> nofun)
  · rintro rfl
    exact effect_subOpen e nofun nofun nofun

/-- Settles O35: the registers of P are none of those D and K write (R55), and D and K raise no fault (R215). -/
theorem frameOfDecodeAndTake : Obligations.FrameOfDecodeAndTake := by
  intro i s t hi h
  have e := exec_effect h
  have other {j : Instr} (hj : ¬ (j = .dpop ∨ j = .dpush ∨ j = .dclose ∨ j = .take)) : i ≠ j :=
    fun hij => hj (hij ▸ hi)
  have notOther : ∀ b, i ≠ .bOther b := fun b => other (by simp)
  have notByte : ¬ dataByteOp i := by
    rintro (rfl | rfl | ⟨b, rfl⟩) <;> exact other (by simp) rfl
  have notEnd : ¬ (i = .soc ∨ i = .eoc ∨ i = .abort) := by
    rintro (rfl | rfl | rfl) <;> exact other (by simp) rfl
  have notP : i.agent ≠ .p := by rcases hi with rfl | rfl | rfl | rfl <;> nofun
  obtain ⟨hst, hpay, hxacc, hdbuf⟩ := effect_parser e notByte fun hend => absurd hend notEnd
  refine ⟨hst, hpay, hxacc, hdbuf, effect_vcnt e notOther (other (by simp)),
    effect_subOpen e (other (by simp)) (other (by simp)) (other (by simp)), effect_rawqClosed e (other (by simp)),
    effect_fault e notP, effect_rawq e notOther, ?_, ?_, effect_outqClosed e⟩
  · rintro (rfl | rfl) <;> exact effect_decHold e nofun nofun
  · rintro (rfl | rfl) <;> exact effect_outq e nofun nofun

/-! ## The count law -/

/-- One operation: what it returns and leaves counted is what was counted and the payloads it put into RAWQ (R34, R119,
R129). -/
theorem effect_count {i : Instr} {s t : State} (e : Effect i s t) (hw : s.params.countW = .inf) :
    (countOf t.out).toList.sum + openCount t = openCount s + (t.rawq.drop s.rawq.length).length := by
  cases e with
  | emit _ _ _ _ _ _ opened => simp [countOf, openCount, opened, countUp, hw]
  | restart _ _ opened | overflow _ _ _ opened | mismatch _ _ _ _ _ _ opened => simp [countOf, openCount, opened]
  | soc _ _ _ notOpen => simp [countOf, openCount, notOpen]
  | eoc _ _ opened | abort _ _ opened => simp [countOf, openCount, opened]
  | dpop _ _ _ _ _ head => simp [countOf, openCount, head]
  | _ => simp [countOf, openCount]

theorem countsOf_cons (i : Instr) (is : List Instr) (s : State) :
    countsOf (i :: is) s = (countOf (doOp i s).out).toList ++ countsOf is (doOp i s) := by
  cases h : countOf (doOp i s).out <;> simp [countsOf, outsOf, h]

/-- Settles O47, by induction on the operations with `effect_count` for the first one. -/
theorem countsAddUp : Obligations.CountsAddUp := by
  intro is
  induction is with
  | nil => intro s _; simp [countsOf, outsOf, emittedIn]
  | cons i is ih =>
    intro s hw
    have e := doOp_effect i s
    have first := effect_count e hw
    have rest := ih (doOp i s) (by rw [effect_params e, hw])
    rw [countsOf_cons, List.sum_append, runOps_cons, emittedIn, List.length_append, emittedBy]
    omega

end Sys2Proof.Machine
end

section
/-! PROOFS. Data through the pipeline: the end-to-end order (R195), the end of stream and the drain (R71). -/

namespace Sys2Proof.Machine

/-! ## Trying an operation -/

/-- An effect that is a step taken is what trying the operation does. -/
theorem doOp_of_taken {i : Instr} {s t : State} (e : Effect i s t) (ht : taken t.out = true) : doOp i s = t := by
  rw [doOp, effect_exec e (fun ho => by simp [ho, taken] at ht) (fun c ho => by simp [ho, taken] at ht), after_next]

theorem agent_of_digitOp {i : Instr} {b : Byte} (h : digitOp i b) : i.agent = .p := by
  obtain rfl | ⟨rfl, _⟩ := h <;> rfl

/-- What an operation of D or K can do. -/
theorem downstream_cases {i : Instr} {s t : State} (e : Effect i s t) (hi : i.agent ≠ .p) :
    t = { s with out := .hold } ∨
    (∃ p r, i = .dpop ∧ s.fault = .noFault ∧ s.decHold = none ∧ s.rawq = p :: r ∧
      t = { s with decHold := some (dec p), rawq := r, out := .done }) ∨
    (∃ x, i = .dpush ∧ s.fault = .noFault ∧ s.decHold = some x ∧ s.outq.length < s.params.qcapOut ∧
      t = { s with outq := s.outq ++ [x], decHold := none, out := .done }) ∨
    (i = .dclose ∧ s.fault = .noFault ∧ s.decHold = none ∧ s.outqClosed = false ∧ s.rawq = [] ∧ s.rawqClosed = true ∧
      t = { s with outqClosed := true, out := .done }) ∨
    (∃ x r, i = .take ∧ s.fault = .noFault ∧ s.outq = x :: r ∧ t = { s with outq := r, out := .sentence x }) ∨
    (i = .take ∧ s.fault = .noFault ∧ s.outq = [] ∧ s.outqClosed = true ∧ t = { s with out := .eos }) := by
  cases e with
  | hold => exact .inl rfl
  | dpop _ p r run free head => exact .inr (.inl ⟨p, r, rfl, run, free, head, rfl⟩)
  | dpush _ x run has room => exact .inr (.inr (.inl ⟨x, rfl, run, has, room, rfl⟩))
  | dclose _ run free notClosed empty closed =>
    exact .inr (.inr (.inr (.inl ⟨rfl, run, free, notClosed, empty, closed, rfl⟩)))
  | take _ x r run head => exact .inr (.inr (.inr (.inr (.inl ⟨x, r, rfl, run, head, rfl⟩))))
  | eos _ run empty closed => exact .inr (.inr (.inr (.inr (.inr ⟨rfl, run, empty, closed, rfl⟩))))
  | fatal _ _ _ _ _ agent => exact absurd agent hi
  | noise _ byte => exact absurd (agent_of_digitOp byte.choose_spec) hi
  | firstDigit _ _ byte | mismatch _ _ _ byte | emit _ _ _ byte => exact absurd (agent_of_digitOp byte) hi
  | _ => exact absurd rfl hi

/-! ## The end-to-end order -/

/-- One operation: what K receives and what is then in flight is what was in flight and the Sentence of the payload
emitted (R195). -/
theorem effect_inFlight {i : Instr} {s t : State} (e : Effect i s t) :
    (sentenceOf t.out).toList ++ inFlight t = inFlight s ++ (t.rawq.drop s.rawq.length).map dec := by
  cases e with
  | emit => simp [sentenceOf, inFlight]
  | dpop _ _ _ _ free head => simp [sentenceOf, inFlight, free, head]
  | dpush _ _ _ has => simp [sentenceOf, inFlight, has]
  | take _ _ _ _ head => simp [sentenceOf, inFlight, head]
  | _ => simp [sentenceOf, inFlight]

theorem deliveredBy_cons (i : Instr) (is : List Instr) (s : State) :
    deliveredBy (i :: is) s = (sentenceOf (doOp i s).out).toList ++ deliveredBy is (doOp i s) := by
  cases h : sentenceOf (doOp i s).out <;> simp [deliveredBy, outsOf, h]

/-- Settles O46, by induction on the operations with `effect_inFlight` for the first one. -/
theorem endToEndOrder : Obligations.EndToEndOrder := by
  intro is
  induction is with
  | nil => intro s; simp [deliveredBy, outsOf, emittedIn]
  | cons i is ih =>
    intro s
    calc deliveredBy (i :: is) s ++ inFlight (runOps (i :: is) s)
        = (sentenceOf (doOp i s).out).toList ++ (deliveredBy is (doOp i s) ++ inFlight (runOps is (doOp i s))) := by
          rw [deliveredBy_cons, runOps_cons, List.append_assoc]
      _ = ((sentenceOf (doOp i s).out).toList ++ inFlight (doOp i s)) ++ (emittedIn is (doOp i s)).map dec := by
          rw [ih, List.append_assoc]
      _ = inFlight s ++ (emittedIn (i :: is) s).map dec := by
          rw [effect_inFlight (doOp_effect i s), emittedIn, emittedBy, List.map_append, List.append_assoc]

/-! ## The end of stream -/

/-- Settles O48: `TAKE` returns `EOS` only for an empty, closed OUTQ, and D closes OUTQ behind an empty pipeline (R53). -/
theorem eosMeansDrained : Obligations.EosMeansDrained := by
  intro s t hc h heos
  obtain rfl | ⟨x, r, _, _, rfl⟩ | ⟨_, hq, hcl, _⟩ := execTake_cases h
  · cases heos
  · cases heos
  · obtain ⟨hraw, hempty, hfree⟩ := hc.1 hcl
    exact ⟨by simp [inFlight, hq, hempty, hfree], hraw⟩

/-! ## The drain of a closed pipeline -/

/-- A closed pipeline that D and K can drain: R53 for a closed RAWQ and no fault, and a place in OUTQ (R7). -/
structure Draining (s : State) : Prop where
  run : s.fault = .noFault
  rawClosed : s.rawqClosed = true
  notOpen : s.subOpen = false
  behind : s.outqClosed = true → s.rawq = [] ∧ s.decHold = none
  place : 1 ≤ s.params.qcapOut

theorem draining_of_closed {s : State} (hc : closureOrdered s) (hw : s.params.wf = true) (hf : s.fault = .noFault)
    (hr : s.rawqClosed = true) : Draining s where
  run := hf
  rawClosed := hr
  notOpen := (hc.2 hr).resolve_right (not_not_intro hf)
  behind := fun ho => (hc.1 ho).2
  place := by simp only [Params.wf, Bool.and_eq_true, decide_eq_true_eq] at hw; exact hw.1.2

/-- D and K keep a draining pipeline so. -/
theorem draining_effect {i : Instr} {s t : State} (e : Effect i s t) (hi : i.agent ≠ .p) (h : Draining s) :
    Draining t := by
  obtain ⟨run, rawClosed, notOpen, behind, place⟩ := h
  obtain rfl | ⟨p, r, _, _, _, head, rfl⟩ | ⟨x, _, _, _, _, rfl⟩ | ⟨_, _, free, _, empty, _, rfl⟩ |
    ⟨x, r, _, _, _, rfl⟩ | ⟨_, _, _, _, rfl⟩ := downstream_cases e hi
  · exact ⟨run, rawClosed, notOpen, behind, place⟩
  · exact ⟨run, rawClosed, notOpen, fun ho => absurd (head.symm.trans (behind ho).1) (List.cons_ne_nil p r), place⟩
  · exact ⟨run, rawClosed, notOpen, fun ho => ⟨(behind ho).1, rfl⟩, place⟩
  · exact ⟨run, rawClosed, notOpen, fun _ => ⟨empty, free⟩, place⟩
  · exact ⟨run, rawClosed, notOpen, behind, place⟩
  · exact ⟨run, rawClosed, notOpen, behind, place⟩

/-- While `drainLeft` counts a step, one of D's and K's operations takes it. -/
theorem drain_step {s : State} (h : Draining s) (hleft : drainLeft s ≠ 0) :
    ∃ i, i.agent ≠ .p ∧ drainLeft (doOp i s) + 1 = drainLeft s := by
  cases hout : s.outq with
  | cons x r =>
    refine ⟨.take, nofun, ?_⟩
    rw [doOp_of_taken (.take s x r h.run hout) rfl]
    simp [drainLeft, hout]; omega
  | nil =>
    cases hhold : s.decHold with
    | some x =>
      refine ⟨.dpush, nofun, ?_⟩
      rw [doOp_of_taken (.dpush s x h.run hhold (hout ▸ h.place)) rfl]
      simp [drainLeft, hout, hhold]; omega
    | none =>
      cases hraw : s.rawq with
      | cons e r =>
        refine ⟨.dpop, nofun, ?_⟩
        rw [doOp_of_taken (.dpop s e r h.run hhold hraw) rfl]
        simp [drainLeft, hout, hhold, hraw]; omega
      | nil =>
        have hopen : s.outqClosed = false := by simpa [drainLeft, hout, hhold, hraw] using hleft
        refine ⟨.dclose, nofun, ?_⟩
        rw [doOp_of_taken (.dclose s h.run hhold hopen hraw h.rawClosed) rfl]
        simp [drainLeft, hout, hhold, hraw, hopen]

/-- A draining pipeline with no step left is `Done` (R192). -/
theorem isDone_of_drained {s : State} (h : Draining s) (hleft : drainLeft s = 0) : isDone s = true := by
  have hraw : s.rawq = [] := List.eq_nil_of_length_eq_zero (by simp only [drainLeft] at hleft; omega)
  have hhold : s.decHold = none := by
    cases hd : s.decHold with
    | none => rfl
    | some x => simp [drainLeft, hd] at hleft
  have hout : s.outq = [] := List.eq_nil_of_length_eq_zero (by simp only [drainLeft] at hleft; omega)
  have hclosed : s.outqClosed = true := by
    by_contra ho
    simp [drainLeft, ho] at hleft
  simp [isDone, h.run, h.rawClosed, h.notOpen, hraw, hhold, hout, hclosed]

/-- In `Done` nothing is in flight. -/
theorem inFlight_of_isDone {s : State} (h : isDone s = true) : inFlight s = [] := by
  simp only [isDone, Bool.and_eq_true, List.isEmpty_iff, Option.isNone_iff_eq_none] at h
  obtain ⟨⟨⟨⟨⟨⟨_, hraw⟩, hhold⟩, _⟩, hout⟩, _⟩, _⟩ := h
  simp [inFlight, hraw, hhold, hout]

/-- D and K never lengthen RAWQ. -/
theorem effect_rawq_length {i : Instr} {s t : State} (e : Effect i s t) (hi : i.agent ≠ .p) :
    t.rawq.length ≤ s.rawq.length := by
  obtain rfl | ⟨p, r, _, _, _, head, rfl⟩ | ⟨x, _, _, _, _, rfl⟩ | ⟨_, _, _, _, _, _, rfl⟩ | ⟨x, r, _, _, _, rfl⟩ |
    ⟨_, _, _, _, rfl⟩ := downstream_cases e hi
  case inr.inl => simp [head]
  all_goals exact le_rfl

/-- So they emit nothing. -/
theorem emittedIn_eq_nil {is : List Instr} (hd : ∀ i ∈ is, i.agent ≠ .p) (s : State) : emittedIn is s = [] := by
  induction is generalizing s with
  | nil => rfl
  | cons i is ih =>
    obtain ⟨hi, his⟩ := List.forall_mem_cons.1 hd
    rw [emittedIn, emittedBy, List.drop_eq_nil_of_le (effect_rawq_length (doOp_effect i s) hi), ih his, List.append_nil]

/-- As many steps of D and K as `drainLeft` counts end the run. -/
theorem drain_run (n : Nat) : ∀ s : State, Draining s → drainLeft s = n →
    ∃ is : List Instr, (∀ i ∈ is, i.agent ≠ .p) ∧ is.length = n ∧ isDone (runOps is s) = true := by
  induction n with
  | zero => exact fun s h hleft => ⟨[], nofun, rfl, isDone_of_drained h hleft⟩
  | succ n ih =>
    intro s h hleft
    obtain ⟨i, hi, hstep⟩ := drain_step h (by omega)
    obtain ⟨is, his, hlen, hdone⟩ := ih (doOp i s) (draining_effect (doOp_effect i s) hi h) (by omega)
    exact ⟨i :: is, List.forall_mem_cons.2 ⟨hi, his⟩, by simp [hlen], hdone⟩

/-- Settles O49: the drain ends in `Done`, and what it delivers follows from `endToEndOrder`, since nothing was emitted
and nothing is left in flight. -/
theorem closedPipelineDrains : Obligations.ClosedPipelineDrains := by
  intro s hc hw hf hr
  obtain ⟨is, his, hlen, hdone⟩ := drain_run _ s (draining_of_closed hc hw hf hr) rfl
  have order := endToEndOrder is s
  rw [inFlight_of_isDone hdone, emittedIn_eq_nil his, List.map_nil, List.append_nil, List.append_nil] at order
  exact ⟨is, his, hlen, hdone, order⟩

end Sys2Proof.Machine
end

section
/-! PROOFS. Enabled steps of different agents commute (R72): two agents meet in a queue at most, where the one upstream
appends at the end and the one downstream reads the head. -/

namespace Sys2Proof.Machine

/-! ## What an agent's step does not see -/

/-- P's registers of `p` beside D's and K's of `d` (R55), with `q` in RAWQ and the output `o`. -/
def joined (p d : State) (q : List ByteString) (o : StepOut) : State :=
  { p with rawq := q, decHold := d.decHold, outq := d.outq, outqClosed := d.outqClosed, out := o }

theorem chunkEnd_joined (p d : State) (q : List ByteString) (o : StepOut) :
    chunkEnd (joined p d q o) = joined (chunkEnd p) d q o := by
  cases h : p.params.chunkReset
  · rw [chunkEnd_keep p h, chunkEnd_keep (joined p d q o) h]
  · rw [chunkEnd_reset p h, chunkEnd_reset (joined p d q o) h]; rfl

/-- A step is taken only with no fault standing (R219). -/
theorem run_of_taken {i : Instr} {s t : State} (e : Effect i s t) (ht : taken t.out = true) : s.fault = .noFault := by
  cases e with
  | hold | fatal => cases ht
  | _ => assumption

/-- A step taken raises no fault. -/
theorem fault_of_taken {i : Instr} {s t : State} (e : Effect i s t) (ht : taken t.out = true) : t.fault = s.fault := by
  cases e with
  | fatal => cases ht
  | soc | eoc | abort => simp
  | _ => rfl

/-- D and K write none of P's registers. -/
theorem joined_of_effect {j : Instr} {s t : State} (e : Effect j s t) (hj : j.agent ≠ .p) :
    joined s t t.rawq t.out = t := by
  obtain rfl | ⟨p, r, _, _, _, _, rfl⟩ | ⟨x, _, _, _, _, rfl⟩ | ⟨_, _, _, _, _, _, rfl⟩ | ⟨x, r, _, _, _, rfl⟩ |
    ⟨_, _, _, _, rfl⟩ := downstream_cases e hj <;> rfl

/-- P has no step to take once RAWQ is closed (R53). -/
theorem rawq_open_of_producer {i : Instr} {s t : State} (e : Effect i s t) (hi : i.agent = .p)
    (ht : taken t.out = true) (hc : closureOrdered s) : s.rawqClosed = false := by
  have opened : s.subOpen = true ∨ s.rawqClosed = false := by
    cases e with
    | hold | fatal => cases ht
    | dpop | dpush | dclose | take | eos => cases hi
    | soc | close => exact .inr ‹_›
    | _ => exact .inl ‹_›
  refine opened.elim (fun ho => Bool.eq_false_iff.2 fun hcl => ?_) id
  exact (hc.2 hcl).elim (by simp [ho]) (absurd (run_of_taken e ht))

/-- An effect that does not see D's and K's registers appends nothing to RAWQ. -/
theorem producer_local_of_effect {i : Instr} {s t : State} (ht : taken t.out = true)
    (h : ∀ d q o, Effect i (joined s d q o) (joined t d q t.out)) :
    ∃ add, ∀ d q o, q.length ≤ s.rawq.length → doOp i (joined s d q o) = joined t d (q ++ add) t.out :=
  ⟨[], fun d q o _ => by rw [List.append_nil]; exact doOp_of_taken (h d q o) ht⟩

/-- P's step is the same whatever D and K have done: it appends what it appends, also to a shorter RAWQ. -/
theorem producer_local {i : Instr} {s t : State} (e : Effect i s t) (hi : i.agent = .p) (ht : taken t.out = true)
    (hcap : s.rawq.length ≤ s.params.qcapRaw) :
    ∃ add, ∀ d q o, q.length ≤ s.rawq.length → doOp i (joined s d q o) = joined t d (q ++ add) t.out := by
  cases e with
  | hold | fatal => cases ht
  | dpop | dpush | dclose | take | eos => cases hi
  | emit _ b c0 byte _ run opened st dbuf yes notClosed room =>
    refine ⟨[s.pay], fun d q o hq => ?_⟩
    exact doOp_of_taken (.emit i b c0 byte (joined s d q o) run opened st dbuf yes notClosed
      (ne_of_lt (lt_of_le_of_lt hq (lt_of_le_of_ne hcap room)))) rfl
  | restart _ run opened => exact producer_local_of_effect ht fun d q o => .restart (joined s d q o) run opened
  | noise _ byte _ run opened st =>
    exact producer_local_of_effect ht fun d q o => .noise i byte (joined s d q o) run opened st
  | starMark _ run opened st =>
    exact producer_local_of_effect ht fun d q o => .starMark (joined s d q o) run opened st
  | payload b _ run opened st room =>
    exact producer_local_of_effect ht fun d q o => .payload b (joined s d q o) run opened st room
  | overflow b _ run opened st full =>
    exact producer_local_of_effect ht fun d q o => .overflow b (joined s d q o) run opened st full
  | firstDigit _ b byte _ run opened st dbuf =>
    exact producer_local_of_effect ht fun d q o => .firstDigit i b byte (joined s d q o) run opened st dbuf
  | mismatch _ b c0 byte _ run opened st dbuf no =>
    exact producer_local_of_effect ht fun d q o => .mismatch i b c0 byte (joined s d q o) run opened st dbuf no
  | close _ run notOpen notClosed =>
    exact producer_local_of_effect ht fun d q o => .close (joined s d q o) run notOpen notClosed
  | soc _ run notClosed notOpen =>
    refine producer_local_of_effect ht fun d q o => ?_
    show Effect .soc (joined s d q o) { joined (chunkEnd { s with subOpen := true, vcnt := 0 }) d q o with out := _ }
    rw [← chunkEnd_joined]
    exact .soc (joined s d q o) run notClosed notOpen
  | eoc _ run opened =>
    refine producer_local_of_effect ht fun d q o => ?_
    show Effect .eoc (joined s d q o) { joined (chunkEnd { s with subOpen := false }) d q o with out := _ }
    rw [← chunkEnd_joined]
    exact .eoc (joined s d q o) run opened
  | abort _ run opened =>
    refine producer_local_of_effect ht fun d q o => ?_
    show Effect .abort (joined s d q o) { joined (chunkEnd { s with subOpen := false }) d q o with out := _ }
    rw [← chunkEnd_joined]
    exact .abort (joined s d q o) run opened

/-- While RAWQ is open, a step of D or K is the same whatever P has done: it takes what it takes, also from a longer
RAWQ. -/
theorem downstream_local {j : Instr} {s t : State} (e : Effect j s t) (hj : j.agent ≠ .p) (ht : taken t.out = true)
    (hopen : s.rawqClosed = false) {p : State} (run : p.fault = .noFault) (hparams : p.params = s.params)
    (add : List ByteString) (o : StepOut) :
    doOp j (joined p s (s.rawq ++ add) o) = joined p t (t.rawq ++ add) t.out := by
  obtain rfl | ⟨q, r, rfl, _, free, head, rfl⟩ | ⟨x, rfl, _, has, room, rfl⟩ | ⟨_, _, _, _, _, closed, _⟩ |
    ⟨x, r, rfl, _, head, rfl⟩ | ⟨rfl, _, empty, closed, rfl⟩ := downstream_cases e hj
  · cases ht
  · exact doOp_of_taken (.dpop (joined p s _ o) q (r ++ add) run free (by rw [head]; rfl)) rfl
  · exact doOp_of_taken (.dpush (joined p s _ o) x run has (hparams ▸ room)) rfl
  · simp [hopen] at closed
  · exact doOp_of_taken (.take (joined p s _ o) x r run head) rfl
  · exact doOp_of_taken (.eos (joined p s _ o) run empty closed) rfl

/-! ## Both orders -/

/-- Where `i` leads to `t` and `j` to `u`: each still shows its outcome after the other, and both orders leave the same
state but for that. -/
def swaps (i j : Instr) (t u : State) : Prop :=
  ∃ v : State, doOp j t = { v with out := u.out } ∧ doOp i u = { v with out := t.out }

theorem swaps_symm {i j : Instr} {t u : State} (h : swaps i j t u) : swaps j i u t := by
  obtain ⟨v, hj, hi⟩ := h
  exact ⟨v, hi, hj⟩

/-- A step of P and one of D or K: P only appends to RAWQ. -/
theorem swaps_producer {i j : Instr} {s t u : State} (hw : withinCapacity s) (hc : closureOrdered s)
    (ei : Effect i s t) (ej : Effect j s u) (hi : i.agent = .p) (hj : j.agent ≠ .p) (ht : taken t.out = true)
    (hu : taken u.out = true) : swaps i j t u := by
  obtain ⟨add, hlocal⟩ := producer_local ei hi ht hw.1
  have hopen := rawq_open_of_producer ei hi ht hc
  have run : t.fault = .noFault := (fault_of_taken ei ht).trans (run_of_taken ei ht)
  have before : t = joined t s (s.rawq ++ add) t.out :=
    (doOp_of_taken ei ht).symm.trans (hlocal s s.rawq s.out le_rfl)
  have moved := hlocal u u.rawq u.out (effect_rawq_length ej hj)
  rw [joined_of_effect ej hj] at moved
  refine ⟨joined t u (u.rawq ++ add) u.out, ?_, moved⟩
  rw [before]
  exact downstream_local ej hj hu hopen run (effect_params ei) add t.out

/-- `TAKE` of a Sentence and a step of D: D only appends to OUTQ. -/
theorem swaps_take {i : Instr} {s t : State} {x : Sentence} {r : List Sentence} (e : Effect i s t) (hi : i.agent = .d)
    (ht : taken t.out = true) (head : s.outq = x :: r) :
    swaps i .take t { s with outq := r, out := .sentence x } := by
  obtain rfl | ⟨p, q, rfl, run, free, rhead, rfl⟩ | ⟨y, rfl, run, has, room, rfl⟩ |
    ⟨rfl, run, free, notClosed, empty, closed, rfl⟩ | ⟨_, _, rfl, _⟩ | ⟨rfl, _⟩ := downstream_cases e (by simp [hi])
  · cases ht
  · exact ⟨{ s with decHold := some (dec p), rawq := q, outq := r },
      doOp_of_taken (.take _ x r run head) rfl, doOp_of_taken (.dpop _ p q run free rhead) rfl⟩
  · have room' : r.length < s.params.qcapOut := Nat.lt_of_succ_lt (by simpa [head] using room)
    exact ⟨{ s with outq := r ++ [y], decHold := none },
      doOp_of_taken (.take _ x (r ++ [y]) run (by rw [head]; rfl)) rfl, doOp_of_taken (.dpush _ y run has room') rfl⟩
  · exact ⟨{ s with outqClosed := true, outq := r },
      doOp_of_taken (.take _ x r run head) rfl, doOp_of_taken (.dclose _ run free notClosed empty closed) rfl⟩
  · cases hi
  · cases hi

/-- D has no step to take once OUTQ is closed (R53). -/
theorem outq_open_of_decode {i : Instr} {s t : State} (e : Effect i s t) (hi : i.agent = .d)
    (ht : taken t.out = true) (hc : closureOrdered s) : s.outqClosed = false := by
  refine Bool.eq_false_iff.2 fun hcl => ?_
  obtain ⟨_, hraw, hhold⟩ := hc.1 hcl
  obtain rfl | ⟨_, _, _, _, _, head, _⟩ | ⟨_, _, _, has, _⟩ | ⟨_, _, _, notClosed, _⟩ | ⟨_, _, rfl, _⟩ | ⟨rfl, _⟩ :=
    downstream_cases e (by simp [hi])
  · cases ht
  · simp [hraw] at head
  · simp [hhold] at has
  · simp [hcl] at notClosed
  · cases hi
  · cases hi

/-- A step of D and one of K: D closes OUTQ by its last step, so K then takes no `EOS`. -/
theorem swaps_decode {i j : Instr} {s t u : State} (hc : closureOrdered s) (ei : Effect i s t) (ej : Effect j s u)
    (hi : i.agent = .d) (hj : j.agent = .k) (ht : taken t.out = true) (hu : taken u.out = true) : swaps i j t u := by
  obtain rfl | ⟨_, _, rfl, _⟩ | ⟨_, rfl, _⟩ | ⟨rfl, _⟩ | ⟨x, r, rfl, _, head, rfl⟩ | ⟨_, _, _, closed, _⟩ :=
    downstream_cases ej (by simp [hj])
  · cases hu
  · cases hj
  · cases hj
  · cases hj
  · exact swaps_take ei hi ht head
  · simp [outq_open_of_decode ei hi ht hc] at closed

/-- Settles O53, by the two agents: P with D or K, and D with K. -/
theorem agentsCommute : Obligations.AgentsCommute := by
  intro i j s o hw hc hne ht hu
  have ei := doOp_effect i s
  have ej := doOp_effect j s
  have key : swaps i j (doOp i s) (doOp j s) := by
    cases hi : i.agent with
    | p => exact swaps_producer hw hc ei ej hi (hi ▸ hne.symm) ht hu
    | d =>
      cases hj : j.agent with
      | p => exact swaps_symm (swaps_producer hw hc ej ei hj (hj ▸ hne) hu ht)
      | d => exact absurd (hi.trans hj.symm) hne
      | k => exact swaps_decode hc ei ej hi hj ht hu
    | k =>
      cases hj : j.agent with
      | p => exact swaps_symm (swaps_producer hw hc ej ei hj (hj ▸ hne) hu ht)
      | d => exact swaps_symm (swaps_decode hc ej ei hj hi hu ht)
      | k => exact absurd (hi.trans hj.symm) hne
  obtain ⟨v, hj, hi⟩ := key
  rw [hj, hi]
  exact ⟨hu, rfl⟩

end Sys2Proof.Machine
end

section
/-! PROOFS. Event words: the decoder and the encoder are inverse to each other, and the words the decoder rejects are
the reserved ones (R86 to R92). -/

namespace Sys2Proof

/-! ## The fields of a port word -/

@[simp] theorem opField_append (op : BitVec 2) (d : Byte) : opField (op ++ d) = op := by
  apply BitVec.eq_of_toNat_eq
  have := op.isLt; have := d.isLt
  rw [opField_toNat, append_toNat]; omega

@[simp] theorem dataField_append (op : BitVec 2) (d : Byte) : dataField (op ++ d) = d := by
  apply BitVec.eq_of_toNat_eq
  have := d.isLt
  rw [dataField_toNat, append_toNat]; omega

/-- A port word is named by its two fields. -/
theorem append_eq_of_fields {l : PortWord} {op : BitVec 2} {d : Byte} (ho : opField l = op) (hd : dataField l = d) :
    (op ++ d : PortWord) = l := by
  rw [← ho, ← hd, portWord_fields]

/-- The port word of two fields, as a number (R88). -/
theorem portWord_toNat (l : PortWord) : l.toNat = (opField l).toNat * 256 + (dataField l).toNat := by
  conv_lhs => rw [← portWord_fields l]
  exact append_toNat _ _

/-! ## Data bytes -/

theorem ofByte_other {b : Byte} (hd : b ≠ dollarByte) (hs : b ≠ starByte) : Instr.ofByte b = .bOther b := by
  simp [Instr.ofByte, classOf, hd, hs]

/-- R91: `B.OTHER` is well formed at the bytes that are no marker. -/
theorem wf_bOther_iff {b : Byte} : (Instr.bOther b).wf = true ↔ b ≠ dollarByte ∧ b ≠ starByte := by
  simp [Instr.wf, dollarByte, starByte]

/-- R82, R88: the operation of a data byte is P's, well formed, and carries that byte. -/
theorem ofByte_spec (b : Byte) :
    (Instr.ofByte b).agent = .p ∧ encodeLow (Instr.ofByte b) = 0b00#2 ++ b ∧ (Instr.ofByte b).wf = true := by
  by_cases hd : b = dollarByte
  · subst hd; decide
  · by_cases hs : b = starByte
    · subst hs; decide
    · rw [ofByte_other hd hs]
      exact ⟨rfl, rfl, wf_bOther_iff.mpr ⟨hd, hs⟩⟩

/-! ## One decoder per agent -/

@[simp] theorem decode_p (l : PortWord) : decode (eventWord Agent.p.code l) = decodeP l := by
  simp [decode, Agent.code]

@[simp] theorem decode_d (l : PortWord) : decode (eventWord Agent.d.code l) = decodeD l := by
  simp [decode, Agent.code]

@[simp] theorem decode_k (l : PortWord) : decode (eventWord Agent.k.code l) = decodeK l := by
  simp [decode, Agent.code]

/-- R87: a word is one of P, of D, of K, or has the reserved agent field. -/
theorem decode_cases (w : EventWord) :
    (∃ l, w = eventWord Agent.p.code l ∧ decode w = decodeP l) ∨
    (∃ l, w = eventWord Agent.d.code l ∧ decode w = decodeD l) ∨
    (∃ l, w = eventWord Agent.k.code l ∧ decode w = decodeK l) ∨
    (0xC00 ≤ w.toNat ∧ decode w = .noOperation) := by
  have fields := eventWord_fields w
  by_cases hp : agentField w = 0b00#2
  · exact .inl ⟨portField w, by rw [Agent.code, ← hp, fields], by simp [decode, hp]⟩
  by_cases hd : agentField w = 0b01#2
  · exact .inr (.inl ⟨portField w, by rw [Agent.code, ← hd, fields], by simp [decode, hd]⟩)
  by_cases hk : agentField w = 0b10#2
  · exact .inr (.inr (.inl ⟨portField w, by rw [Agent.code, ← hk, fields], by simp [decode, hk]⟩))
  have number := agentField_toNat w
  exact .inr (.inr (.inr ⟨by bv_omega, by simp [decode, hp, hd, hk]⟩))

/-! ## The word of an operation decodes to it -/

/-- Settles O1, by the operation: ten fixed words, and `B.OTHER` with a byte of class OTHER. -/
theorem decodeOfEncode : Obligations.DecodeOfEncode := by
  intro i hwf
  cases i with
  | bOther b =>
    obtain ⟨hd, hs⟩ := wf_bOther_iff.mp hwf
    calc decode (encode (.bOther b)) = decodeP (0b00#2 ++ b) := decode_p _
      _ = .instr (Instr.ofByte b) := by simp [decodeP]
      _ = .instr (.bOther b) := by rw [ofByte_other hd hs]
  | bStart | bStar | soc | eoc | abort | close | dpop | dpush | dclose | take => decide

/-! ## A word that decodes is its operation's word -/

/-- What it is for a port word to carry an operation of the agent `a`. -/
def Carries (a : Agent) (l : PortWord) (i : Instr) : Prop := i.agent = a ∧ encodeLow i = l ∧ i.wf = true

theorem encode_of_carries {a : Agent} {l : PortWord} {i : Instr} (h : Carries a l i) :
    encode i = eventWord a.code l ∧ i.wf = true := by
  obtain ⟨rfl, rfl, hwf⟩ := h
  exact ⟨rfl, hwf⟩

theorem carries_of_decodeP {l : PortWord} {i : Instr} (h : decodeP l = .instr i) : Carries .p l i := by
  unfold decodeP at h
  split at h
  next ho =>
    cases h
    obtain ⟨agent, low, wf⟩ := ofByte_spec (dataField l)
    exact ⟨agent, low.trans (append_eq_of_fields ho rfl), wf⟩
  split at h
  next ho =>
    split at h
    next hd => cases h; exact ⟨rfl, append_eq_of_fields ho hd, rfl⟩
    next => cases h
  split at h
  next ho =>
    split at h
    next hd => cases h; exact ⟨rfl, append_eq_of_fields ho hd, rfl⟩
    split at h
    next hd => cases h; exact ⟨rfl, append_eq_of_fields ho hd, rfl⟩
    next => cases h
  split at h
  next h0 h1 h2 hd =>
    have ho : opField l = 0b11#2 := by bv_omega
    cases h; exact ⟨rfl, append_eq_of_fields ho hd, rfl⟩
  next => cases h

theorem carries_of_decodeD {l : PortWord} {i : Instr} (h : decodeD l = .instr i) : Carries .d l i := by
  unfold decodeD at h
  split at h
  next ho =>
    split at h
    next hd => cases h; exact ⟨rfl, append_eq_of_fields ho hd, rfl⟩
    split at h
    next hd => cases h; exact ⟨rfl, append_eq_of_fields ho hd, rfl⟩
    split at h
    next hd => cases h; exact ⟨rfl, append_eq_of_fields ho hd, rfl⟩
    next => cases h
  next => cases h

theorem carries_of_decodeK {l : PortWord} {i : Instr} (h : decodeK l = .instr i) : Carries .k l i := by
  unfold decodeK at h
  split at h
  next ho =>
    split at h
    next hd => cases h; exact ⟨rfl, append_eq_of_fields ho hd, rfl⟩
    next => cases h
  next => cases h

/-- Settles O2, by the agent of the word: each agent's decoder reads off the operation the word carries. -/
theorem encodeOfDecode : Obligations.EncodeOfDecode := by
  intro w i h
  obtain ⟨l, rfl, hl⟩ | ⟨l, rfl, hl⟩ | ⟨l, rfl, hl⟩ | ⟨_, hno⟩ := decode_cases w
  · exact encode_of_carries (carries_of_decodeP (hl.symm.trans h))
  · exact encode_of_carries (carries_of_decodeD (hl.symm.trans h))
  · exact encode_of_carries (carries_of_decodeK (hl.symm.trans h))
  · rw [hno] at h; cases h

/-! ## The reserved words -/

theorem decodeP_illegal_iff (l : PortWord) :
    decodeP l = .illegalPortWord ↔
      (0x101 ≤ l.toNat ∧ l.toNat ≤ 0x1FF) ∨ (0x202 ≤ l.toNat ∧ l.toNat ≤ 0x2FF) ∨ 0x301 ≤ l.toNat := by
  have number := portWord_toNat l
  have := (dataField l).isLt
  unfold decodeP
  split_ifs <;> simp <;> bv_omega

theorem decodeP_ne_noOperation (l : PortWord) : decodeP l ≠ .noOperation := by
  unfold decodeP
  split_ifs <;> simp

theorem decodeD_ne_illegal (l : PortWord) : decodeD l ≠ .illegalPortWord := by
  unfold decodeD
  split_ifs <;> simp

theorem decodeK_ne_illegal (l : PortWord) : decodeK l ≠ .illegalPortWord := by
  unfold decodeK
  split_ifs <;> simp

theorem decodeD_noOperation_iff (l : PortWord) : decodeD l = .noOperation ↔ 0x003 ≤ l.toNat := by
  have number := portWord_toNat l
  have := (dataField l).isLt
  unfold decodeD
  split_ifs <;> simp <;> bv_omega

theorem decodeK_noOperation_iff (l : PortWord) : decodeK l = .noOperation ↔ 0x001 ≤ l.toNat := by
  have number := portWord_toNat l
  have := (dataField l).isLt
  unfold decodeK
  split_ifs <;> simp <;> bv_omega

/-- Settles O3, by the agent of the word: its field shifts the ranges of that agent's port words. -/
theorem reservedWordsRejectedByName : Obligations.ReservedWordsRejectedByName := by
  intro w
  obtain ⟨l, rfl, hl⟩ | ⟨l, rfl, hl⟩ | ⟨l, rfl, hl⟩ | ⟨hw, hno⟩ := decode_cases w
  · have number : (eventWord Agent.p.code l).toNat = 0 * 1024 + l.toNat := eventWord_toNat _ l
    have := l.isLt
    rw [hl]
    exact ⟨(decodeP_illegal_iff l).trans (by omega), iff_of_false (decodeP_ne_noOperation l) (by omega)⟩
  · have number : (eventWord Agent.d.code l).toNat = 1 * 1024 + l.toNat := eventWord_toNat _ l
    have := l.isLt
    rw [hl]
    exact ⟨iff_of_false (decodeD_ne_illegal l) (by omega), (decodeD_noOperation_iff l).trans (by omega)⟩
  · have number : (eventWord Agent.k.code l).toNat = 2 * 1024 + l.toNat := eventWord_toNat _ l
    have := l.isLt
    rw [hl]
    exact ⟨iff_of_false (decodeK_ne_illegal l) (by omega), (decodeK_noOperation_iff l).trans (by omega)⟩
  · rw [hno]
    exact ⟨iff_of_false (by simp) (by omega), iff_of_true rfl (by omega)⟩

/-! ## The operation map -/

theorem encode_bOther (b : Byte) : encode (.bOther b) = 0x0#4 ++ b := by
  apply BitVec.eq_of_toNat_eq
  rw [append_toNat, encode, eventWord_toNat, encodeLow, append_toNat]
  simp [Agent.code]

/-- Settles O4: the map's column "hex" shows the words of `encode`, which decode to their operations. -/
theorem tableWordsDecode : Obligations.TableWordsDecode := by
  refine ⟨decodeOfEncode .bStart rfl, decodeOfEncode .bStar rfl, fun b hd hs => ?_, decodeOfEncode .soc rfl,
    decodeOfEncode .eoc rfl, decodeOfEncode .abort rfl, decodeOfEncode .close rfl, decodeOfEncode .dpop rfl,
    decodeOfEncode .dpush rfl, decodeOfEncode .dclose rfl, decodeOfEncode .take rfl⟩
  rw [← encode_bOther b]
  exact decodeOfEncode (.bOther b) (wf_bOther_iff.mpr ⟨hd, hs⟩)

end Sys2Proof
end

section
/-! PROOFS. The verdict on a pair of received bytes, and which bytes yield a frame (R83, R113 to R116, R133, R134). -/

namespace Sys2Proof.Machine

/-! ## The verdict -/

/-- R111, R112: the checksum of one byte is the rendering of that byte. -/
@[simp] theorem chk_singleton (x : Byte) : chk [x] = render x := by simp [chk, xof, xstep]

/-- R114: a match is the two rendered characters. -/
theorem matchDigits_iff (x c0 c1 : Byte) : matchDigits x c0 c1 = true ↔ [c0, c1] = render x := by
  simp [matchDigits, render]

theorem verdict_exact {q : Params} (h : q.rxUpcase = false) (x c0 c1 : Byte) :
    verdict q x c0 c1 = true ↔ [c0, c1] = render x := by
  simp [verdict, h, matchDigits_iff]

theorem verdict_upcased {q : Params} (h : q.rxUpcase = true) (x c0 c1 : Byte) :
    verdict q x c0 c1 = true ↔ [up c0, up c1] = render x := by
  simp [verdict, h, matchDigits_iff]

/-- The sixteen lower-case digit characters, upper-cased (R83, R115). -/
theorem up_hexLo (n : BitVec 4) : up (hexLo n) = hexUp n := by
  revert n; decide

/-- `up` leaves the two markers alone, so it hides none (R81, R115). -/
theorem plainByte_of_up {b : Byte} (h : plainByte (up b) = true) : plainByte b = true := by
  by_contra hb
  obtain rfl | rfl : b = dollarByte ∨ b = starByte := by
    by_cases hd : b = dollarByte
    · exact .inl hd
    · exact .inr (by simpa [plainByte, hd] using hb)
  · exact absurd h (by decide)
  · exact absurd h (by decide)

/-- The characters of a rendering are no markers (R83). -/
theorem plainByte_of_render {x c0 c1 : Byte} (h : [c0, c1] = render x) :
    plainByte c0 = true ∧ plainByte c1 = true := by
  obtain ⟨rfl, rfl⟩ : c0 = hexUp (hiNibble x) ∧ c1 = hexUp (loNibble x) := by simpa [render] using h
  exact ⟨(hexUp_digit _).1, (hexUp_digit _).1⟩

/-- Bytes that pass are no markers, upper-cased or not. -/
theorem plainByte_of_verdict {q : Params} {x c0 c1 : Byte} (h : verdict q x c0 c1 = true) :
    plainByte c0 = true ∧ plainByte c1 = true := by
  cases hu : q.rxUpcase with
  | false => exact plainByte_of_render ((verdict_exact hu x c0 c1).mp h)
  | true =>
    obtain ⟨h0, h1⟩ := plainByte_of_render ((verdict_upcased hu x c0 c1).mp h)
    exact ⟨plainByte_of_up h0, plainByte_of_up h1⟩

/-- The lower-case rendering passes when it is upper-cased, or is the upper-case one (R113, R116). -/
theorem verdict_renderLower {q : Params} {x c0 c1 : Byte} (h : [c0, c1] = renderLower x) :
    verdict q x c0 c1 = true ↔ q.rxUpcase = true ∨ renderLower x = render x := by
  cases hu : q.rxUpcase with
  | false => simp [verdict_exact hu, h]
  | true =>
    obtain ⟨rfl, rfl⟩ : c0 = hexLo (hiNibble x) ∧ c1 = hexLo (loNibble x) := by simpa [renderLower] using h
    simp [verdict_upcased hu, up_hexLo, render]

/-- Settles O56, by the value of `RX_UPCASE`. -/
theorem verdictAcceptsOnlyDigits : Obligations.VerdictAcceptsOnlyDigits := by
  intro q x c0 c1
  rw [chk_singleton]
  exact ⟨fun hu => verdict_exact hu x c0 c1, fun hu => verdict_upcased hu x c0 c1, verdict_renderLower,
    plainByte_of_verdict⟩

/-- The rendering of the accumulator passes in both modes: upper-casing leaves it alone (R118). -/
theorem verdict_render (q : Params) (x : Byte) : verdict q x (hexUp (hiNibble x)) (hexUp (loNibble x)) = true := by
  cases hu : q.rxUpcase with
  | false => exact (verdict_exact hu _ _ _).mpr rfl
  | true => rw [verdict_upcased hu, (hexUp_digit _).2, (hexUp_digit _).2, render]

/-! ## Occurrences -/

theorem dollar_notMem_of_markerFree {p : ByteString} (h : markerFree p = true) : dollarByte ∉ p := fun hmem =>
  absurd (List.all_eq_true.mp h _ hmem) (by decide)

/-- R133: an occurrence read off its first marker after the start; what it needs of the bytes that follow. -/
theorem frameAt_eq_some_iff {p : ByteString} {m : Byte} (q : Params) (r e : ByteString) (hp : markerFree p = true)
    (hm : plainByte m = false) :
    frameAt q (dollarByte :: (p ++ m :: r)) = some e ↔
      e = p ∧ m = starByte ∧ withinLimit q.payloadMax p.length = true ∧
        ∃ c0 c1 c, r = c0 :: c1 :: c ∧ c0 ≠ dollarByte ∧ c1 ≠ dollarByte ∧ verdict q (xof p) c0 c1 = true := by
  have plain : ∀ b ∈ p, plainByte b = true := List.all_eq_true.mp hp
  have ends : (p ++ m :: r).dropWhile plainByte = m :: r := by
    simp [List.dropWhile_append_of_pos plain, hm]
  have payload : (p ++ m :: r).takeWhile plainByte = p := by
    simp [List.takeWhile_append_of_pos plain, hm]
  simp only [frameAt, if_pos, ends, payload]
  match r with
  | [] => simp
  | [c0] => simp
  | c0 :: c1 :: c =>
    simp [eq_comm (a := p), and_comm, and_left_comm]

/-- R133: no occurrence where the first marker is no star, or a checksum byte starts a frame or fails the verdict. -/
theorem frameAt_eq_none {q : Params} {p r : ByteString} {m : Byte} (hp : markerFree p = true)
    (hm : plainByte m = false)
    (bad : ∀ c0 c1 c, r = c0 :: c1 :: c → m = starByte → c0 ≠ dollarByte → c1 ≠ dollarByte →
      verdict q (xof p) c0 c1 = false) : frameAt q (dollarByte :: (p ++ m :: r)) = none := by
  refine Option.eq_none_iff_forall_ne_some.mpr fun e he => ?_
  obtain ⟨-, star, -, c0, c1, c, hr, h0, h1, ok⟩ := (frameAt_eq_some_iff q r e hp hm).mp he
  rw [bad c0 c1 c hr star h0 h1] at ok
  cases ok

/-- Bytes without a start marker yield nothing of their own. -/
theorem framesIn_append_of_noStart {c : ByteString} (q : Params) (d : ByteString) (h : dollarByte ∉ c) :
    framesIn q (c ++ d) = framesIn q d := by
  induction c with
  | nil => rfl
  | cons b r ih =>
    obtain ⟨hb, hr⟩ := List.ne_and_not_mem_of_not_mem_cons h
    rw [List.cons_append, framesIn_skip q _ (Ne.symm hb), ih hr]

/-- A start marker that opens no occurrence is passed over, with the bytes up to the next one. -/
theorem framesIn_discard {q : Params} {p d : ByteString} (hnone : frameAt q (dollarByte :: (p ++ d)) = none)
    (hp : dollarByte ∉ p) : framesIn q (dollarByte :: (p ++ d)) = framesIn q d := by
  rw [framesIn_cons, hnone, framesIn_append_of_noStart q d hp]
  rfl

/-- `FRAME` of a payload is an occurrence, since its checksum passes the verdict (R85, R100). -/
theorem framesIn_frame (q : Params) {p : ByteString} (c : ByteString) (hp : markerFree p = true)
    (hl : withinLimit q.payloadMax p.length = true) : framesIn q (frame p ++ c) = p :: framesIn q c := by
  have ne_dollar : ∀ n, hexUp n ≠ dollarByte := by decide
  have shape : frame p ++ c = dollarByte :: ((p ++ starByte :: chk p) ++ c) := rfl
  have found : frameAt q (dollarByte :: ((p ++ starByte :: chk p) ++ c)) = some p := by
    rw [List.append_assoc, List.cons_append, frameAt_eq_some_iff q _ p hp rfl]
    exact ⟨rfl, rfl, hl, _, _, c, rfl, ne_dollar _, ne_dollar _, verdict_render q (xof p)⟩
  have noStart : dollarByte ∉ p ++ starByte :: chk p := by
    simp [dollar_notMem_of_markerFree hp, chk, render, (ne_dollar _).symm]
    decide
  rw [shape, framesIn_cons, found, framesIn_append_of_noStart q c noStart]
  rfl

/-- A frame is four bytes at least: a start marker, a star and two checksum bytes (R85). -/
theorem length_of_frameAt {q : Params} {c e : ByteString} (h : frameAt q c = some e) : 4 ≤ c.length := by
  unfold frameAt at h
  split at h
  · cases h
  next b r =>
    split at h
    · split at h
      next m c0 c1 d ends =>
        have bound := (List.dropWhile_suffix plainByte (l := r)).length_le
        rw [ends] at bound
        simp only [List.length_cons] at bound ⊢
        omega
      · cases h
    · cases h

theorem framesIn_short (q : Params) {c : ByteString} (h : c.length < 4) : framesIn q c = [] := by
  induction c with
  | nil => rfl
  | cons b r ih =>
    have hnone : frameAt q (b :: r) = none :=
      Option.eq_none_iff_forall_ne_some.mpr fun e he => by have := length_of_frameAt he; omega
    rw [framesIn_cons, hnone, ih (by simp only [List.length_cons] at h; omega)]
    rfl

/-! ## What discards a frame (R134) -/

theorem framesIn_badChecksum {q : Params} {p : ByteString} {c0 c1 : Byte} (hp : markerFree p = true)
    (hv : verdict q (xof p) c0 c1 = false) : framesIn q (dollarByte :: (p ++ [starByte, c0, c1])) = [] := by
  have hnone : frameAt q (dollarByte :: (p ++ [starByte, c0, c1])) = none :=
    frameAt_eq_none hp rfl fun d0 d1 d hd _ _ _ => by cases hd; exact hv
  rw [framesIn_discard hnone (dollar_notMem_of_markerFree hp), framesIn_skip q _ (by decide)]
  exact framesIn_short q (by simp)

theorem framesIn_restart_in_payload (q : Params) {p : ByteString} (c : ByteString) (hp : markerFree p = true) :
    framesIn q (dollarByte :: (p ++ dollarByte :: c)) = framesIn q (dollarByte :: c) :=
  framesIn_discard (frameAt_eq_none hp rfl fun _ _ _ _ star => absurd star (by decide))
    (dollar_notMem_of_markerFree hp)

theorem framesIn_restart_after_star (q : Params) {p : ByteString} (c : ByteString) (hp : markerFree p = true) :
    framesIn q (dollarByte :: (p ++ starByte :: dollarByte :: c)) = framesIn q (dollarByte :: c) := by
  have hnone : frameAt q (dollarByte :: (p ++ starByte :: dollarByte :: c)) = none :=
    frameAt_eq_none hp rfl fun _ _ _ hr _ h0 => by cases hr; exact absurd rfl h0
  rw [framesIn_discard hnone (dollar_notMem_of_markerFree hp), framesIn_skip q _ (by decide)]

/-- The one checksum byte between may itself be a start marker: then the frame it opens is discarded in turn. -/
theorem framesIn_restart_after_digit (q : Params) {p : ByteString} (c0 : Byte) (c : ByteString)
    (hp : markerFree p = true) :
    framesIn q (dollarByte :: (p ++ starByte :: c0 :: dollarByte :: c)) = framesIn q (dollarByte :: c) := by
  have hnone : frameAt q (dollarByte :: (p ++ starByte :: c0 :: dollarByte :: c)) = none :=
    frameAt_eq_none hp rfl fun _ _ _ hr _ _ h1 => by cases hr; exact absurd rfl h1
  rw [framesIn_discard hnone (dollar_notMem_of_markerFree hp), framesIn_skip q _ (by decide)]
  by_cases h0 : c0 = dollarByte
  · rw [h0]; exact framesIn_restart_in_payload q (p := []) c rfl
  · exact framesIn_skip q _ h0

/-- Settles O52, clause by clause: no start marker, a well-formed frame, a wrong checksum, the three restarts. -/
theorem framesOfChunk : Obligations.FramesOfChunk := by
  refine ⟨fun q c h => ?_, fun q p c hp hl => framesIn_frame q c hp hl,
    fun q p c0 c1 hp hv => framesIn_badChecksum hp hv,
    fun q p c hp => ⟨framesIn_restart_in_payload q c hp, framesIn_restart_after_star q c hp,
      fun c0 => framesIn_restart_after_digit q c0 c hp⟩⟩
  simpa using framesIn_append_of_noStart q [] h

end Sys2Proof.Machine
end

section
/-! PROOFS. The laws of the accumulator (R110, R112, R117) and the case of its rendering (R113). -/

namespace Sys2Proof.Machine

/-! ## The laws of `XOF` -/

/-- R117: each further byte is one `XSTEP`, and the exclusive-or is associative. -/
theorem xof_append (s t : ByteString) : xof (s ++ t) = xof s ^^^ xof t := by
  induction t using List.reverseRecOn with
  | nil => simp
  | append_singleton t b ih =>
    rw [← List.append_assoc, xof_snoc, xof_snoc, ih]
    exact BitVec.xor_assoc _ _ _

@[simp] theorem xof_cons (b : Byte) (s : ByteString) : xof (b :: s) = b ^^^ xof s := by
  have single : xof [b] = b := BitVec.zero_xor
  rw [← List.singleton_append, xof_append, single]

/-- R117: exchanging two neighbours is enough, and the exclusive-or is commutative. -/
theorem xof_perm {s t : ByteString} (h : s.Perm t) : xof s = xof t := by
  induction h with
  | nil => rfl
  | cons b _ ih => rw [xof_cons, xof_cons, ih]
  | swap a b r =>
    simp only [xof_cons]
    rw [← BitVec.xor_assoc, BitVec.xor_comm b a, BitVec.xor_assoc]
  | trans _ _ ih₁ ih₂ => exact ih₁.trans ih₂

/-- R117: brought to the front by a permutation, the two equal bytes cancel. -/
theorem xof_cancel (s t u : ByteString) (b : Byte) : xof (s ++ b :: (t ++ b :: u)) = xof (s ++ (t ++ u)) := by
  have front : (s ++ b :: (t ++ b :: u)).Perm (b :: b :: (s ++ (t ++ u))) :=
    (List.perm_middle.trans ((List.perm_middle.append_left s).cons b)).trans (List.perm_middle.cons b)
  rw [xof_perm front, xof_cons, xof_cons, ← BitVec.xor_assoc, BitVec.xor_self, BitVec.zero_xor]

/-- Settles O55: the law of a concatenation by induction on its second part, the others from it. -/
theorem xofLaws : Obligations.XofLaws :=
  ⟨xof_append, fun _ _ => xof_perm, xof_cancel, xof_nil⟩

/-! ## The rendering -/

/-- Settles O57: `up` takes each of the two lower-case digit characters to the upper-case one. -/
theorem renderingIsUpperCase : Obligations.RenderingIsUpperCase := by
  intro x
  simp only [renderLower, render, List.map_cons, List.map_nil, up_hexLo]

end Sys2Proof.Machine
end

section
/-! PROOFS. The frame detector: the answers of the data bytes as whole states (R120, R122, R124 to R129), and the byte
that completes a frame as the only source of RAWQ's entries. -/

namespace Sys2Proof.Machine

/-! ## Steps taken -/

theorem exec_eq_doOp (i : Instr) (s : State) : exec i s = .next (doOp i s) := by
  obtain ⟨t, h⟩ := exec_next i s
  rw [doOp, h, after_next]

/-- An effect that is a step taken is what the operation answers. -/
theorem exec_of_taken {i : Instr} {s t : State} (e : Effect i s t) (ht : taken t.out = true) : exec i s = .next t := by
  rw [exec_eq_doOp, doOp_of_taken e ht]

/-! ## RAWQ grows only by a verified frame -/

/-- Settles O44: of the effects only `emit` lengthens RAWQ, and its byte is of class OTHER since `'*'` fails every
verdict. -/
theorem onlyVerifiedFramesAreEmitted : Obligations.OnlyVerifiedFramesAreEmitted := by
  intro i s t h longer
  cases exec_effect h with
  | emit _ b c0 byte _ _ _ st dbuf yes => exact ⟨b, c0, bOther_of_verdict byte yes, st, dbuf, yes, rfl, rfl⟩
  | dpop _ _ _ _ _ head => simp [head] at longer
  | soc | eoc | abort => simp at longer
  | _ => exact absurd longer (lt_irrefl _)

/-! ## The gate of a submission (R120) -/

theorem inSubmission_outside {s : State} (r : Res) (hf : s.fault = .noFault) (hs : s.subOpen = false) :
    inSubmission s r = raiseFatal .outsideSubmission s := by
  simp [inSubmission, live_running _ hf, hs]

/-- Settles O14: each of the five forms is guarded by the gate. -/
theorem outsideSubmissionIsFatal : Obligations.OutsideSubmissionIsFatal := by
  intro s i hf hs hi
  obtain rfl | rfl | ⟨b, rfl⟩ | rfl | rfl := hi <;> exact inSubmission_outside _ hf hs

/-- Settles O9: the effect `restart` inside a submission, the gate outside one. -/
theorem startByteRestarts : Obligations.StartByteRestarts := fun s hf =>
  ⟨fun opened => exec_of_taken (.restart s hf opened) rfl,
    fun notOpen => outsideSubmissionIsFatal s .bStart hf notOpen (.inl rfl)⟩

/-! ## Noise, payload and overflow (R124, R125, R127) -/

/-- Settles O11: the effects `noise`, `payload` and `overflow`. -/
theorem otherByteIsNoiseOrPayload : Obligations.OtherByteIsNoiseOrPayload := fun s b hf opened =>
  ⟨fun st => exec_of_taken (.noise (.bOther b) ⟨b, .inl rfl⟩ s hf opened st) rfl,
    fun st room => exec_of_taken (.payload b s hf opened st room) rfl,
    fun st full => exec_of_taken (.overflow b s hf opened st full) rfl⟩

/-! ## The two checksum bytes (R126, R128, R129) -/

/-- Settles O12: the effects `firstDigit` and `mismatch`. -/
theorem digitKeptOrFrameDropped : Obligations.DigitKeptOrFrameDropped := fun s b hf opened st =>
  ⟨fun dbuf => exec_of_taken (.firstDigit (.bOther b) b (.inl rfl) s hf opened st dbuf) rfl,
    fun c0 dbuf no => exec_of_taken (.mismatch (.bOther b) b c0 (.inl rfl) s hf opened st dbuf no) rfl⟩

/-- With one byte kept the second one is judged (R126). -/
theorem exec_bOther_judge {s : State} {b c0 : Byte} (hf : s.fault = .noFault) (opened : s.subOpen = true)
    (st : s.st = .awaitingChecksum) (dbuf : s.dbuf = some c0) : exec (.bOther b) s = judge c0 b s := by
  simp only [exec, execBOther, inSubmission_open _ hf opened, st, digit, dbuf]

/-- R129, first case: closed is tested before full. -/
theorem judge_of_closed {s : State} {c0 c1 : Byte} (yes : verdict s.params s.xacc c0 c1 = true)
    (closed : s.rawqClosed = true) : judge c0 c1 s = raiseFatal .pushClosed s := by
  simp [judge, yes, emit, push, closed]

/-- R129, second case. -/
theorem judge_of_full {s : State} {c0 c1 : Byte} (yes : verdict s.params s.xacc c0 c1 = true)
    (notClosed : s.rawqClosed = false) (full : s.rawq.length = s.params.qcapRaw) : judge c0 c1 s = held s := by
  simp [judge, yes, emit, push, notClosed, full]

/-- Settles O13: the judged byte meets a closed or a full RAWQ, else the effect is `emit`. -/
theorem matchingFrameIsEmitted : Obligations.MatchingFrameIsEmitted := by
  intro s b c0 hf opened st dbuf yes
  have judged : exec (.bOther b) s = judge c0 b s := exec_bOther_judge hf opened st dbuf
  refine ⟨fun closed => ?_, fun notClosed full => ?_, fun notClosed room => ?_⟩
  · rw [judged, judge_of_closed yes closed, raiseFatal_eq]
  · rw [judged, judge_of_full yes notClosed full, held_eq]
  · exact exec_of_taken (.emit (.bOther b) b c0 (.inl rfl) s hf opened st dbuf yes notClosed room) rfl

end Sys2Proof.Machine
end

section
/-! PROOFS. The sentence decoder: what the fields of a string are, and what `DEC` makes of them (R150 to R156). -/

namespace Sys2Proof.Machine

/-! ## The shape of a split -/

/-- The induction that `SPLIT` follows: a comma opens an empty field, any other byte goes to the front of the first one
(R150). -/
theorem split_induction {motive : ByteString → Prop} (nil : motive [])
    (comma : ∀ r, motive r → motive (commaByte :: r))
    (other : ∀ b r f fs, b ≠ commaByte → split r = f :: fs → split (b :: r) = (b :: f) :: fs → motive r → motive (b :: r))
    (p : ByteString) : motive p := by
  induction p with
  | nil => exact nil
  | cons b r ih =>
    by_cases h : b = commaByte
    · exact h ▸ comma r ih
    · obtain ⟨f, fs, tail, whole⟩ := split_other r h
      exact other b r f fs h tail whole ih

theorem length_split (p : ByteString) : (split p).length = p.count commaByte + 1 := by
  induction p using split_induction with
  | nil => rfl
  | comma r ih => rw [split_comma, List.length_cons, ih, List.count_cons_self]
  | other b r f fs hb tail whole ih =>
    rw [tail] at ih
    rw [whole, List.count_cons_of_ne hb, ← ih, List.length_cons, List.length_cons]

theorem comma_notMem_of_mem_split (p : ByteString) : ∀ f ∈ split p, commaByte ∉ f := by
  induction p using split_induction with
  | nil => simp
  | comma r ih => simpa using ih
  | other b r f fs hb tail whole ih =>
    rw [tail, List.forall_mem_cons] at ih
    rw [whole, List.forall_mem_cons]
    exact ⟨List.not_mem_cons_of_ne_of_not_mem hb.symm ih.1, ih.2⟩

/-! ## Fields joined again -/

theorem joinFields_cons (f : ByteString) {fs : List ByteString} (h : fs ≠ []) :
    joinFields (f :: fs) = f ++ commaByte :: joinFields fs := by
  cases fs with
  | nil => exact absurd rfl h
  | cons => rfl

theorem joinFields_cons_cons (b : Byte) (f : ByteString) (fs : List ByteString) :
    joinFields ((b :: f) :: fs) = b :: joinFields (f :: fs) := by
  cases fs <;> rfl

theorem joinFields_split (p : ByteString) : joinFields (split p) = p := by
  induction p using split_induction with
  | nil => rfl
  | comma r ih => rw [split_comma, joinFields_cons [] (split_ne_nil r), ih, List.nil_append]
  | other b r f fs hb tail whole ih => rw [whole, joinFields_cons_cons, ← tail, ih]

theorem mem_joinFields {f : ByteString} {fs : List ByteString} {b : Byte} (hf : f ∈ fs) (hb : b ∈ f) :
    b ∈ joinFields fs := by
  induction fs with
  | nil => cases hf
  | cons g gs ih =>
    cases gs with
    | nil => exact List.mem_singleton.mp hf ▸ hb
    | cons g' gs =>
      obtain rfl | hf := List.mem_cons.mp hf
      · exact List.mem_append_left _ hb
      · exact List.mem_append_right _ (List.mem_cons_of_mem _ (ih hf))

/-- R150: the bytes of a field are bytes of the string. -/
theorem mem_of_mem_split {p f : ByteString} {b : Byte} (hf : f ∈ split p) (hb : b ∈ f) : b ∈ p :=
  joinFields_split p ▸ mem_joinFields hf hb

/-- Settles O58: each part by the induction that `SPLIT` follows. -/
theorem splitLosesNothing : Obligations.SplitLosesNothing := fun p =>
  ⟨joinFields_split p, comma_notMem_of_mem_split p, length_split p⟩

/-! ## The Sentence -/

theorem dec_of_header_five {p h : ByteString} {fs : List ByteString} (hs : split p = h :: fs) (len : h.length = 5) :
    dec p = { valid := true, kind := kindOf h, data := h :: fs } := by
  simp [dec, headerOf, hs, len]

theorem dec_of_header_other {p h : ByteString} {fs : List ByteString} (hs : split p = h :: fs) (len : h.length ≠ 5) :
    dec p = { valid := false, kind := [], data := h :: fs } := by
  simp [dec, headerOf, hs, len]

/-- R154: a header of five bytes and what `Kind` takes of it. -/
theorem kindOf_of_length_five {h : ByteString} (len : h.length = 5) :
    ∃ a b c d e, h = [a, b, c, d, e] ∧ kindOf h = [c, d, e] :=
  match h, len with
  | [a, b, c, d, e], _ => ⟨a, b, c, d, e, rfl, rfl⟩

/-- Settles O59: by whether the header has five bytes. -/
theorem decodedSentence : Obligations.DecodedSentence := by
  intro p
  obtain ⟨h, fs, hs⟩ := List.exists_cons_of_ne_nil (split_ne_nil p)
  refine ⟨dec_data p, h, fs, (dec_data p).trans hs, ?_⟩
  by_cases len : h.length = 5
  · rw [dec_of_header_five hs len]
    exact ⟨iff_of_true rfl len, nofun, fun _ => kindOf_of_length_five len⟩
  · rw [dec_of_header_other hs len]
    exact ⟨iff_of_false nofun len, fun _ => rfl, nofun⟩

theorem plainByte_iff {b : Byte} : plainByte b = true ↔ b ≠ dollarByte ∧ b ≠ starByte := by simp [plainByte]

/-- Settles O60: a byte of a field is a byte of the payload, and no field holds a comma. -/
theorem fieldsAreClean : Obligations.FieldsAreClean := by
  intro p clean f hf b hb
  rw [dec_data] at hf
  obtain ⟨noDollar, noStar⟩ := plainByte_iff.mp (List.all_eq_true.mp clean b (mem_of_mem_split hf hb))
  exact ⟨noDollar, noStar, fun comma => comma_notMem_of_mem_split p f hf (comma ▸ hb)⟩

end Sys2Proof.Machine
end

section
/-! PROOFS. The handshake queues: FIFO discipline (R161, R162), and closed bits and a fault that no step undoes (R163,
R220). -/

namespace Sys2Proof.Machine

/-! ## The FIFO discipline -/

/-- Settles O45: RAWQ is appended to by `emit` and popped by `dpop`, OUTQ by `dpush` and by `take`; every other effect
leaves both. -/
theorem queuesAreFifo : Obligations.QueuesAreFifo := by
  intro i s t h
  cases exec_effect h with
  | emit => exact ⟨.inr (.inl ⟨s.pay, rfl⟩), .inl rfl⟩
  | dpop _ e _ _ _ head => exact ⟨.inr (.inr ⟨e, head⟩), .inl rfl⟩
  | dpush _ x => exact ⟨.inl rfl, .inr (.inl ⟨x, rfl⟩)⟩
  | take _ x _ _ head => exact ⟨.inl rfl, .inr (.inr ⟨x, head⟩)⟩
  | soc | eoc | abort => exact ⟨.inl (by simp), .inl (by simp)⟩
  | _ => exact ⟨.inl rfl, .inl rfl⟩

/-! ## Closed bits and the fault -/

section Kept

variable {i : Instr} {s t : State}

/-- With a fatal fault standing no effect but the hold is left (R219). -/
theorem effect_eq_of_fault (e : Effect i s t) (hf : s.fault ≠ .noFault) : t = { s with out := .hold } := by
  cases e with
  | hold => rfl
  | _ => exact absurd ‹s.fault = .noFault› hf

theorem effect_keeps_rawqClosed (e : Effect i s t) (closed : s.rawqClosed = true) : t.rawqClosed = true := by
  cases e with
  | close => rfl
  | soc | eoc | abort => simpa using closed
  | _ => exact closed

theorem effect_keeps_outqClosed (e : Effect i s t) (closed : s.outqClosed = true) : t.outqClosed = true := by
  cases e with
  | dclose => rfl
  | soc | eoc | abort => simpa using closed
  | _ => exact closed

/-- A reserved P-port word holds or raises a fault, as an operation of P can (R92 a). -/
theorem illegalWord_effect (h : illegalWord s = .next t) (hi : i.agent = .p) : Effect i s t := by
  obtain ⟨_, rfl⟩ | ⟨hf, rfl⟩ := illegalWord_cases h
  · exact .hold i s
  · exact .fatal i s _ hf (by decide) hi

/-- Turn bookkeeping apart, a step is idle or has an effect. -/
theorem step_effect (h : step s = .next t) :
    t = { takeTurn s with out := .idle } ∨ ∃ w i u, Effect i (takeTurn s) u ∧ t = consumeWord w u := by
  obtain ⟨_, rfl⟩ | ⟨w, i, u, _, _, hu, rfl⟩ | ⟨w, u, _, _, hu, rfl⟩ := step_cases h
  · exact .inl rfl
  · exact .inr ⟨w, i, u, exec_effect hu, rfl⟩
  · exact .inr ⟨w, .close, u, illegalWord_effect hu rfl, rfl⟩

end Kept

/-- Settles O40: an idle turn writes none of these registers, and each effect keeps them as its lemma says. -/
theorem stepNeverReopens : Obligations.StepNeverReopens := by
  intro s t h
  obtain rfl | ⟨w, i, u, e, rfl⟩ := step_effect h
  · exact ⟨rfl, id, id, fun _ => rfl⟩
  · exact ⟨by simpa using effect_params e, fun closed => by simpa using effect_keeps_rawqClosed e closed,
      fun closed => by simpa using effect_keeps_outqClosed e closed, fun hf => by simp [effect_eq_of_fault e hf]⟩

end Sys2Proof.Machine
end

section
/-! PROOFS. One submission emits the validated occurrences of its bytes (R133, R188): the bytes that may yet become a
frame are read off the parser, and each further byte keeps the occurrences of what is pending and what follows. -/

namespace Sys2Proof.Machine

/-! ## What ends an occurrence -/

/-- After the payload an occurrence has three bytes more (R133). -/
theorem frameAt_of_short {q : Params} {p r : ByteString} (hp : markerFree p = true) (hr : r.length < 3) :
    frameAt q (dollarByte :: (p ++ r)) = none := by
  have ends : (p ++ r).dropWhile plainByte = r.dropWhile plainByte :=
    List.dropWhile_append_of_pos (List.all_eq_true.mp hp)
  have bound := (List.dropWhile_suffix plainByte (l := r)).length_le
  simp only [frameAt, if_pos, ends]
  split
  next tail =>
    rw [tail] at bound
    simp only [List.length_cons] at bound
    omega
  · rfl

theorem framesIn_unfinished {q : Params} {p r : ByteString} (hp : markerFree p = true) (hr : r.length < 3) :
    framesIn q (dollarByte :: (p ++ r)) = [] := by
  rw [framesIn_discard (frameAt_of_short hp hr) (dollar_notMem_of_markerFree hp), framesIn_short q (by omega)]

theorem withinLimit_of_le {l : Limit} {m n : Nat} (h : withinLimit l n = true) (hmn : m ≤ n) :
    withinLimit l m = true := by
  cases l with
  | fin k => exact decide_eq_true (hmn.trans (of_decide_eq_true h))
  | inf => rfl

theorem withinLimit_zero (l : Limit) : withinLimit l 0 = true := by
  cases l with
  | fin k => exact decide_eq_true (Nat.zero_le k)
  | inf => rfl

/-- There is room for one more byte exactly when the longer payload is within the bound (R10, R125). -/
theorem withinLimit_succ (l : Limit) (n : Nat) : withinLimit l (n + 1) = belowLimit l n := by
  cases l <;> rfl

/-- R127: bytes of class OTHER beyond the bound drop the frame they belong to. -/
theorem framesIn_overflow {q : Params} {p : ByteString} (d : ByteString) (hp : markerFree p = true)
    (long : withinLimit q.payloadMax p.length = false) : framesIn q (dollarByte :: (p ++ d)) = framesIn q d := by
  have payload : (p ++ d).takeWhile plainByte = p ++ d.takeWhile plainByte :=
    List.takeWhile_append_of_pos (List.all_eq_true.mp hp)
  have tooLong : withinLimit q.payloadMax ((p ++ d).takeWhile plainByte).length = false := by
    refine Bool.eq_false_iff.2 fun ok => ?_
    rw [withinLimit_of_le ok (by simp [payload])] at long
    cases long
  refine framesIn_discard ?_ (dollar_notMem_of_markerFree hp)
  simp only [frameAt, if_pos, tooLong]
  split
  · simp
  · rfl

/-- No frame starts at a checksum byte that is no `'$'`, so what follows yields its own (R133). -/
theorem framesIn_judged {q : Params} {p : ByteString} {c0 c1 : Byte} (d : ByteString) (hp : markerFree p = true)
    (h0 : c0 ≠ dollarByte) (h1 : c1 ≠ dollarByte) (hl : withinLimit q.payloadMax p.length = true) :
    framesIn q (dollarByte :: (p ++ starByte :: c0 :: c1 :: d)) =
      (if verdict q (xof p) c0 c1 = true then [p] else []) ++ framesIn q d := by
  have hne : dollarByte ≠ starByte := by decide
  have noStart : dollarByte ∉ p ++ [starByte, c0, c1] := by
    simp [dollar_notMem_of_markerFree hp, hne, h0.symm, h1.symm]
  have rest : framesIn q (p ++ starByte :: c0 :: c1 :: d) = framesIn q d := by
    simpa using framesIn_append_of_noStart q d noStart
  rw [framesIn_cons, rest]
  split
  next yes =>
    rw [(frameAt_eq_some_iff q (c0 :: c1 :: d) p hp rfl).mpr ⟨rfl, rfl, hl, c0, c1, d, rfl, h0, h1, yes⟩]
    rfl
  next no =>
    rw [frameAt_eq_none hp rfl fun e0 e1 e he _ _ _ => by cases he; exact Bool.eq_false_iff.2 no]
    rfl

/-! ## What the parser holds of the bytes received -/

/-- The payload gathered since the start marker, as R49 and R31 have it. -/
structure Gathered (s : State) : Prop where
  acc : s.xacc = xof s.pay
  clean : markerFree s.pay = true
  limit : withinLimit s.params.payloadMax s.pay.length = true

/-- The parser of `s` holds the bytes `w`: those received that may yet become a frame. -/
inductive Pending (s : State) : ByteString → Prop where
  | idle (st : s.st = .idle) : Pending s []
  | payload (st : s.st = .capturing) (dbuf : s.dbuf = none) (g : Gathered s) : Pending s (dollarByte :: (s.pay ++ []))
  | star (st : s.st = .awaitingChecksum) (dbuf : s.dbuf = none) (g : Gathered s) :
      Pending s (dollarByte :: (s.pay ++ [starByte]))
  | digit (c0 : Byte) (st : s.st = .awaitingChecksum) (dbuf : s.dbuf = some c0) (h0 : c0 ≠ dollarByte) (g : Gathered s) :
      Pending s (dollarByte :: (s.pay ++ [starByte, c0]))

/-- Pending bytes are no frame yet. -/
theorem framesIn_pending {s : State} {w : ByteString} (q : Params) (h : Pending s w) : framesIn q w = [] := by
  cases h with
  | idle => rfl
  | payload _ _ g | star _ _ g | digit _ _ _ _ g => exact framesIn_unfinished g.clean (by simp)

/-- A start marker discards what is pending (R122, R134 e). -/
theorem framesIn_pending_start {s : State} {w : ByteString} (q : Params) (d : ByteString) (h : Pending s w) :
    framesIn q (w ++ dollarByte :: d) = framesIn q (dollarByte :: d) := by
  cases h with
  | idle => rfl
  | payload _ _ g => simpa using framesIn_restart_in_payload q d g.clean
  | star _ _ g => simpa using framesIn_restart_after_star q d g.clean
  | digit c0 _ _ _ g => simpa using framesIn_restart_after_digit q c0 d g.clean

/-! ## What data bytes write -/

/-- From `s` to `t` the payloads `add` were put into RAWQ and counted, and nothing else but the parser was written. -/
structure Received (add : List ByteString) (s t : State) : Prop where
  rawq : t.rawq = s.rawq ++ add
  vcnt : t.vcnt = (countUp s.params)^[add.length] s.vcnt
  params : t.params = s.params
  fault : t.fault = s.fault
  subOpen : t.subOpen = s.subOpen
  rawqClosed : t.rawqClosed = s.rawqClosed
  decHold : t.decHold = s.decHold
  outq : t.outq = s.outq
  outqClosed : t.outqClosed = s.outqClosed

theorem Received.refl (s : State) : Received [] s s :=
  ⟨(List.append_nil _).symm, rfl, rfl, rfl, rfl, rfl, rfl, rfl, rfl⟩

theorem Received.trans {add more : List ByteString} {s t u : State} (h : Received add s t) (k : Received more t u) :
    Received (add ++ more) s u where
  rawq := by rw [k.rawq, h.rawq, List.append_assoc]
  vcnt := by rw [k.vcnt, h.vcnt, h.params, List.length_append, Nat.add_comm, Function.iterate_add_apply]
  params := k.params.trans h.params
  fault := k.fault.trans h.fault
  subOpen := k.subOpen.trans h.subOpen
  rawqClosed := k.rawqClosed.trans h.rawqClosed
  decHold := k.decHold.trans h.decHold
  outq := k.outq.trans h.outq
  outqClosed := k.outqClosed.trans h.outqClosed

/-- R119: counting up from 0 shows the number of frames. -/
theorem countUp_iterate_zero (p : Params) (n : Nat) : (countUp p)^[n] 0 = countShown p n := by
  induction n with
  | zero => cases h : p.countW <;> simp [countShown, h]
  | succ n ih =>
    rw [Function.iterate_succ_apply', ih]
    cases h : p.countW <;> simp [countUp, countShown, h]

/-- With `w` pending in `s`, the bytes `c` lead to `t` where `w'` is pending. The payloads `add` they put into RAWQ are the
occurrences that no later byte can change. -/
structure Reads (s : State) (w c : ByteString) (add : List ByteString) (t : State) (w' : ByteString) : Prop where
  received : Received add s t
  pending : Pending t w'
  frames : ∀ d, framesIn s.params (w ++ (c ++ d)) = add ++ framesIn s.params (w' ++ d)

theorem Reads.trans {s t u : State} {w w' w'' c d : ByteString} {add more : List ByteString}
    (h : Reads s w c add t w') (k : Reads t w' d more u w'') : Reads s w (c ++ d) (add ++ more) u w'' where
  received := h.received.trans k.received
  pending := k.pending
  frames e := by
    have later := k.frames e
    rw [h.received.params] at later
    rw [List.append_assoc, h.frames, later, List.append_assoc]

/-! ## One byte -/

/-- An open submission into an open RAWQ, with no fault. -/
structure Reading (s : State) : Prop where
  run : s.fault = .noFault
  opened : s.subOpen = true
  notClosed : s.rawqClosed = false

theorem Received.reading {add : List ByteString} {s t : State} (h : Received add s t) (hs : Reading s) : Reading t :=
  ⟨h.fault.trans hs.run, h.subOpen.trans hs.opened, h.rawqClosed.trans hs.notClosed⟩

theorem digitOp_ofByte {b : Byte} (hb : b ≠ dollarByte) : digitOp (.ofByte b) b := by
  by_cases hs : b = starByte
  · subst hs; exact .inr ⟨rfl, rfl⟩
  · exact .inl (ofByte_other hb hs)

theorem dataByteOp_ofByte (b : Byte) : dataByteOp (.ofByte b) := by
  by_cases hb : b = dollarByte
  · subst hb; exact .inl rfl
  · exact dataByteOp_of_digitOp (digitOp_ofByte hb)

/-- A data byte whose step is taken writes RAWQ, the count and the parser at most (R55). -/
theorem received_of_effect {b : Byte} {s t : State} {add : List ByteString} (e : Effect (.ofByte b) s t)
    (ht : taken t.out = true) (rawq : t.rawq = s.rawq ++ add)
    (vcnt : t.vcnt = (countUp s.params)^[add.length] s.vcnt) : Received add s (doOp (.ofByte b) s) := by
  obtain ⟨subOpen, rawqClosed, decHold, outq, outqClosed, -⟩ :=
    frameOfDataBytes _ s t (dataByteOp_ofByte b) (exec_of_taken e ht)
  rw [doOp_of_taken e ht]
  exact ⟨rawq, vcnt, effect_params e, fault_of_taken e ht, subOpen, rawqClosed, decHold, outq, outqClosed⟩

/-- A byte that emits nothing. -/
theorem reads_quiet {b : Byte} {s t : State} {w w' : ByteString} (e : Effect (.ofByte b) s t) (ht : t.out = .done)
    (rawq : t.rawq = s.rawq) (vcnt : t.vcnt = s.vcnt) (pending : Pending t w')
    (frames : ∀ d, framesIn s.params (w ++ b :: d) = framesIn s.params (w' ++ d)) :
    Reads s w [b] [] (doOp (.ofByte b) s) w' := by
  have tk : taken t.out = true := by rw [ht]; rfl
  refine ⟨received_of_effect e tk (by simpa using rawq) vcnt, ?_, frames⟩
  rw [doOp_of_taken e tk]
  exact pending

/-- R122: in every parser state a start marker begins a frame anew. -/
theorem reads_start {s : State} {w : ByteString} (hs : Reading s) (hw : Pending s w) :
    Reads s w [dollarByte] [] (doOp .bStart s) [dollarByte] :=
  reads_quiet (.restart s hs.run hs.opened) rfl rfl rfl (.payload rfl rfl ⟨rfl, rfl, withinLimit_zero _⟩)
    fun d => framesIn_pending_start s.params d hw

theorem reads_idle {b : Byte} {s : State} (hs : Reading s) (hb : b ≠ dollarByte) (st : s.st = .idle) :
    Reads s [] [b] [] (doOp (.ofByte b) s) [] :=
  reads_quiet (.noise _ ⟨b, digitOp_ofByte hb⟩ s hs.run hs.opened st) rfl rfl rfl (.idle st)
    fun d => framesIn_skip s.params d hb

/-- R123 to R125, R127: a star ends the payload, and any other byte is added to it or overflows. -/
theorem reads_payload {b : Byte} {s : State} (hs : Reading s) (hb : b ≠ dollarByte) (st : s.st = .capturing)
    (dbuf : s.dbuf = none) (g : Gathered s) :
    ∃ w', Reads s (dollarByte :: (s.pay ++ [])) [b] [] (doOp (.ofByte b) s) w' := by
  by_cases star : b = starByte
  · subst star
    refine ⟨_, reads_quiet (.starMark s hs.run hs.opened st) rfl rfl rfl (.star rfl dbuf ⟨g.acc, g.clean, g.limit⟩) ?_⟩
    exact fun d => by simp
  have asOther {t : State} (e : Effect (.bOther b) s t) : Effect (.ofByte b) s t := by rwa [ofByte_other hb star]
  have clean : markerFree (s.pay ++ [b]) = true := by
    rw [markerFree, List.all_append]
    exact Bool.and_eq_true_iff.mpr ⟨g.clean, by simpa using plainByte_iff.mpr ⟨hb, star⟩⟩
  have bound : withinLimit s.params.payloadMax (s.pay ++ [b]).length = payHasRoom s := by
    rw [List.length_append]
    exact withinLimit_succ _ _
  cases room : payHasRoom s with
  | true =>
    have acc : xstep s.xacc b = xof (s.pay ++ [b]) := by rw [xof_snoc, g.acc]
    refine ⟨_, reads_quiet (asOther (.payload b s hs.run hs.opened st room)) rfl rfl rfl
      (.payload st dbuf ⟨acc, clean, bound.trans room⟩) ?_⟩
    exact fun d => by simp
  | false =>
    refine ⟨[], reads_quiet (asOther (.overflow b s hs.run hs.opened st room)) rfl rfl rfl (.idle rfl) fun d => ?_⟩
    simpa using framesIn_overflow d clean (bound.trans room)

/-- R126: the first checksum byte is kept. -/
theorem reads_star {b : Byte} {s : State} (hs : Reading s) (hb : b ≠ dollarByte) (st : s.st = .awaitingChecksum)
    (dbuf : s.dbuf = none) (g : Gathered s) :
    Reads s (dollarByte :: (s.pay ++ [starByte])) [b] [] (doOp (.ofByte b) s)
      (dollarByte :: (s.pay ++ [starByte, b])) :=
  reads_quiet (.firstDigit _ b (digitOp_ofByte hb) s hs.run hs.opened st dbuf) rfl rfl rfl
    (.digit b st rfl hb ⟨g.acc, g.clean, g.limit⟩) fun d => by simp

/-- R128, R129: the second checksum byte is judged; a payload that passes needs a place in RAWQ. -/
theorem reads_digit {b c0 : Byte} {s : State} (hs : Reading s) (hb : b ≠ dollarByte) (st : s.st = .awaitingChecksum)
    (dbuf : s.dbuf = some c0) (h0 : c0 ≠ dollarByte) (g : Gathered s)
    (place : verdict s.params s.xacc c0 b = true → s.rawq.length ≠ s.params.qcapRaw) :
    ∃ add, Reads s (dollarByte :: (s.pay ++ [starByte, c0])) [b] add (doOp (.ofByte b) s) [] := by
  have judged (d : ByteString) := framesIn_judged d g.clean h0 hb g.limit
  rw [← g.acc] at judged
  cases v : verdict s.params s.xacc c0 b with
  | false =>
    refine ⟨[], reads_quiet (.mismatch _ b c0 (digitOp_ofByte hb) s hs.run hs.opened st dbuf v) rfl rfl rfl (.idle rfl)
      fun d => ?_⟩
    simpa [v] using judged d
  | true =>
    have e := Effect.emit _ b c0 (digitOp_ofByte hb) s hs.run hs.opened st dbuf v hs.notClosed (place v)
    refine ⟨[s.pay], received_of_effect e rfl rfl rfl, ?_, fun d => ?_⟩
    · rw [doOp_of_taken e rfl]
      exact .idle rfl
    · simpa [v] using judged d

/-- Each byte, with room for the occurrences of what is pending and what follows. -/
theorem reads_byte {b : Byte} {s : State} {w c : ByteString} (hs : Reading s) (hw : Pending s w)
    (room : s.rawq.length + (framesIn s.params (w ++ b :: c)).length ≤ s.params.qcapRaw) :
    ∃ add w', Reads s w [b] add (doOp (.ofByte b) s) w' := by
  by_cases hb : b = dollarByte
  · subst hb
    exact ⟨_, _, reads_start hs hw⟩
  cases hw with
  | idle st => exact ⟨_, _, reads_idle hs hb st⟩
  | payload st dbuf g => exact ⟨_, reads_payload hs hb st dbuf g⟩
  | star st dbuf g => exact ⟨_, _, reads_star hs hb st dbuf g⟩
  | digit c0 st dbuf h0 g =>
    have place (v : verdict s.params s.xacc c0 b = true) : s.rawq.length ≠ s.params.qcapRaw := by
      have judged := framesIn_judged c g.clean h0 hb g.limit
      rw [← g.acc, if_pos v] at judged
      have whole : framesIn s.params (dollarByte :: (s.pay ++ [starByte, c0]) ++ b :: c) =
          s.pay :: framesIn s.params c := by simpa using judged
      rw [whole, List.length_cons] at room
      omega
    obtain ⟨add, h⟩ := reads_digit hs hb st dbuf h0 g place
    exact ⟨add, [], h⟩

/-! ## The bytes of a submission -/

/-- R133 for any part of a chunk, from any pending bytes. -/
theorem reads_bytes (c : ByteString) : ∀ {s : State} {w : ByteString}, Reading s → Pending s w →
    s.rawq.length + (framesIn s.params (w ++ c)).length ≤ s.params.qcapRaw →
    ∃ add w', Reads s w c add (runOps (dataOps c) s) w' := by
  induction c with
  | nil => exact fun {s w} _ hw _ => ⟨[], w, .refl s, hw, fun _ => rfl⟩
  | cons b c ih =>
    intro s w hs hw room
    obtain ⟨add, w', first⟩ := reads_byte hs hw room
    have left : (doOp (.ofByte b) s).rawq.length + (framesIn (doOp (.ofByte b) s).params (w' ++ c)).length ≤
        (doOp (.ofByte b) s).params.qcapRaw := by
      have whole : framesIn s.params (w ++ b :: c) = add ++ framesIn s.params (w' ++ c) := first.frames c
      rw [whole, List.length_append] at room
      rw [first.received.params, first.received.rawq, List.length_append]
      omega
    obtain ⟨more, w'', rest⟩ := ih (first.received.reading hs) first.pending left
    exact ⟨add ++ more, w'', first.trans rest⟩

/-- A part of a chunk emits the occurrences complete at its end. -/
theorem Reads.emitted {s t : State} {w w' c : ByteString} {add : List ByteString} (h : Reads s w c add t w') :
    add = framesIn s.params (w ++ c) := by
  have whole := h.frames []
  simp only [List.append_nil] at whole
  rw [whole, framesIn_pending s.params h.pending, List.append_nil]

/-! ## The ends of a submission -/

theorem chunkEnd_st_idle {s : State} (h : s.params.chunkReset = true ∨ s.st = .idle) : (chunkEnd s).st = .idle := by
  unfold chunkEnd
  split
  · rfl
  next keep => exact h.resolve_left keep

/-- R180: `SOC` opens a submission with nothing counted, and the parser may be forced to Idle. -/
theorem soc_received {s : State} (run : s.fault = .noFault) (notClosed : s.rawqClosed = false)
    (notOpen : s.subOpen = false) : Received [] { s with subOpen := true, vcnt := 0 } (doOp .soc s) := by
  rw [doOp_of_taken (.soc s run notClosed notOpen) rfl]
  constructor <;> simp

/-- A submission starts with nothing pending where `CHUNK_RESET` forces the parser to Idle, or where it is in Idle. -/
theorem soc_pending {s : State} (run : s.fault = .noFault) (notClosed : s.rawqClosed = false)
    (notOpen : s.subOpen = false) (fresh : s.params.chunkReset = true ∨ s.st = .idle) : Pending (doOp .soc s) [] := by
  rw [doOp_of_taken (.soc s run notClosed notOpen) rfl]
  exact .idle (chunkEnd_st_idle fresh)

theorem runOps_submit (c : ByteString) (s : State) :
    runOps (submit c) s = doOp .eoc (runOps (dataOps c) (doOp .soc s)) := by
  rw [submit, runOps_cons, runOps_append, runOps_cons, runOps_nil]

/-- Settles O50: `SOC` leaves nothing pending, the bytes emit their occurrences, and `EOC` returns the count. -/
theorem submissionYieldsItsFrames : Obligations.SubmissionYieldsItsFrames := by
  intro c s run notOpen notClosed fresh room
  have soc := soc_received run notClosed notOpen
  obtain ⟨add, w, reads⟩ := reads_bytes c (soc.reading ⟨run, rfl, notClosed⟩) (soc_pending run notClosed notOpen fresh)
    (by simpa [soc.params, soc.rawq] using room)
  have frames : add = framesIn s.params c := by rw [reads.emitted, soc.params, List.nil_append]
  have got := soc.trans reads.received
  rw [List.nil_append, frames] at got
  have reading : Reading (runOps (dataOps c) (doOp .soc s)) := got.reading ⟨run, rfl, notClosed⟩
  rw [runOps_submit, doOp_of_taken (.eoc _ reading.run reading.opened) rfl]
  simp [got.rawq, got.vcnt, countUp_iterate_zero, reading.run, reading.notClosed, got.decHold, got.outq, got.outqClosed]

end Sys2Proof.Machine
end

section
/-! PROOFS. The operations of the arbiter as whole states: what opens and ends a submission, closes the pipeline, and what
the decode task and the consumer take (R102, R180 to R187). -/

namespace Sys2Proof.Machine

/-! ## Submissions and closing -/

/-- Settles O15: the two faults in test order, else the effect `soc` with or without the forced Idle. -/
theorem socOpensSubmission : Obligations.SocOpensSubmission := by
  intro s hf
  refine ⟨fun closed => ?_, fun notClosed opened => ?_, fun notClosed notOpen reset => ?_,
    fun notClosed notOpen keep => ?_⟩
  · exact (live_running _ hf).trans (if_pos closed)
  · exact (live_running _ hf).trans ((if_neg (by simp [notClosed])).trans (if_pos opened))
  · have h := exec_of_taken (.soc s hf notClosed notOpen) rfl
    rw [chunkEnd_reset { s with subOpen := true, vcnt := 0 } reset] at h
    exact h
  · have h := exec_of_taken (.soc s hf notClosed notOpen) rfl
    rw [chunkEnd_keep { s with subOpen := true, vcnt := 0 } keep] at h
    exact h

/-- What `EOC` and `ABORT` share; they differ in the error flag they return (R181, R182). -/
def endSubmission (err : Bool) (s : State) : Res :=
  inSubmission s (returned (.result s.vcnt err) (chunkEnd { s with subOpen := false }))

theorem exec_eoc (s : State) : exec .eoc s = endSubmission false s := rfl

theorem exec_abort (s : State) : exec .abort s = endSubmission true s := rfl

theorem endSubmission_reset {err : Bool} {s : State} (hf : s.fault = .noFault) (opened : s.subOpen = true)
    (reset : s.params.chunkReset = true) :
    endSubmission err s = .next { s with subOpen := false, st := .idle, pay := [], xacc := 0x00#8, dbuf := none,
                                         out := .result s.vcnt err } := by
  rw [endSubmission, inSubmission_open _ hf opened, chunkEnd_reset { s with subOpen := false } reset]
  rfl

theorem endSubmission_keep {err : Bool} {s : State} (hf : s.fault = .noFault) (opened : s.subOpen = true)
    (keep : s.params.chunkReset = false) :
    endSubmission err s = .next { s with subOpen := false, out := .result s.vcnt err } := by
  rw [endSubmission, inSubmission_open _ hf opened, chunkEnd_keep { s with subOpen := false } keep]
  rfl

/-- Settles O16: the gate, and the end of a submission with `err = 0`. -/
theorem eocReturnsCount : Obligations.EocReturnsCount := fun _ hf =>
  ⟨inSubmission_outside _ hf, endSubmission_reset hf, endSubmission_keep hf⟩

/-- Settles O17: the gate, and the end of a submission with `err = 1`. -/
theorem abortReturnsCountAndError : Obligations.AbortReturnsCountAndError := fun _ hf =>
  ⟨inSubmission_outside _ hf, endSubmission_reset hf, endSubmission_keep hf⟩

/-- Settles O18: the two faults in test order, else the effect `close`. -/
theorem closeClosesRawq : Obligations.CloseClosesRawq := by
  intro s hf
  refine ⟨fun opened => ?_, fun notOpen closed => ?_, fun notOpen notClosed => ?_⟩
  · exact (live_running _ hf).trans (if_pos opened)
  · exact (live_running _ hf).trans ((if_neg (by simp [notOpen])).trans (if_pos closed))
  · exact exec_of_taken (.close s hf notOpen notClosed) rfl

/-! ## The decode task and the consumer

Each operation takes its one step, an effect, or is held. -/

/-- Settles O19: the effect `dpop`, else the hold. -/
theorem dpopDecodesHead : Obligations.DpopDecodesHead := by
  intro s hf
  refine ⟨fun e r free head => exec_of_taken (.dpop s e r hf free head) rfl, fun no => ?_⟩
  have h := exec_eq_doOp .dpop s
  obtain hold | ⟨e, r, _, free, head, _⟩ := execDpop_cases h
  · rw [h, hold]
  · simp [free, head] at no

/-- Settles O20: the effect `dpush`, else the hold. -/
theorem dpushDelivers : Obligations.DpushDelivers := by
  intro s hf
  refine ⟨fun x has room => exec_of_taken (.dpush s x hf has room) rfl, fun no => ?_⟩
  have h := exec_eq_doOp .dpush s
  obtain hold | ⟨x, _, has, room, _⟩ := execDpush_cases h
  · rw [h, hold]
  · simp [has, room] at no

/-- Settles O21: the effect `dclose`, else the hold. -/
theorem dcloseClosesOutq : Obligations.DcloseClosesOutq := by
  intro s hf
  refine ⟨fun closed empty free notClosed => exec_of_taken (.dclose s hf free notClosed empty closed) rfl, fun no => ?_⟩
  have h := exec_eq_doOp .dclose s
  obtain hold | ⟨_, free, notClosed, empty, closed, _⟩ := execDclose_cases h
  · rw [h, hold]
  · simp [free, notClosed, empty, closed] at no

/-- Settles O22: the effects `take` and `eos`, else the hold. -/
theorem takeReadsOutq : Obligations.TakeReadsOutq := by
  intro s hf
  refine ⟨fun x r head => exec_of_taken (.take s x r hf head) rfl,
    fun empty closed => exec_of_taken (.eos s hf empty closed) rfl, fun empty notClosed => ?_⟩
  have h := exec_eq_doOp .take s
  obtain hold | ⟨x, r, _, head, _⟩ | ⟨_, _, closed, _⟩ := execTake_cases h
  · rw [h, hold]
  · simp [empty] at head
  · simp [notClosed] at closed

/-- Settles O23: the lines read the same OUTQ and closed bit as the three cases of `TAKE`. -/
theorem consumerPortSignals : Obligations.ConsumerPortSignals := by
  intro s t hf h
  obtain ⟨head, eos, hold⟩ := takeReadsOutq s hf
  obtain ⟨x, r, hq, _⟩ | ⟨hq, closed, _⟩ | ⟨hq, notClosed, _⟩ := pop_cases s.outqClosed s.outq
  · obtain rfl := next_inj ((head x r hq).symm.trans h)
    simp [kValid, kEos, kSentence, outEmpty, hq]
  · obtain rfl := next_inj ((eos hq closed).symm.trans h)
    simp [kValid, kEos, kSentence, outEmpty, hq, closed]
  · obtain rfl := next_inj ((hold hq notClosed).symm.trans h)
    simp [kValid, kEos, kSentence, outEmpty, hq, notClosed]

end Sys2Proof.Machine
end

section
/-! PROOFS. When the producer waits (R189), and the order of the phases with its end in `Done` (R192). -/

namespace Sys2Proof.Machine

/-! ## The one hold of the producer -/

/-- A checksum byte is held only when it completes a frame and RAWQ is open and full (R126, R128, R129). -/
theorem digit_hold {b : Byte} {s t : State} (h : digit b s = .next t) (ht : t.out = .hold) :
    ∃ c0, s.dbuf = some c0 ∧ verdict s.params s.xacc c0 b = true ∧ s.rawqClosed = false ∧
      s.rawq.length = s.params.qcapRaw := by
  obtain ⟨_, rfl⟩ | ⟨c0, dbuf, hj⟩ := digit_cases h
  · cases ht
  · obtain ⟨_, rfl⟩ | ⟨_, _, rfl⟩ | ⟨yes, notClosed, full, _⟩ | ⟨_, _, _, rfl⟩ := judge_cases hj
    · cases ht
    · cases ht
    · exact ⟨c0, dbuf, yes, notClosed, full⟩
    · cases ht

/-- The gate of a submission holds nothing of its own while no fault stands (R120). -/
theorem inSubmission_hold {s t : State} {r : Res} (hf : s.fault = .noFault) (h : inSubmission s r = .next t)
    (ht : t.out = .hold) : r = .next t := by
  obtain ⟨fault, _⟩ | ⟨_, _, rfl⟩ | ⟨_, _, hr⟩ := inSubmission_cases h
  · exact absurd hf fault
  · cases ht
  · exact hr

/-- Without a fault an operation of P is held as a checksum byte at most. -/
theorem producer_hold {i : Instr} {s t : State} (hi : i.agent = .p) (hf : s.fault = .noFault)
    (h : exec i s = .next t) (ht : t.out = .hold) :
    ∃ b, digitOp i b ∧ s.subOpen = true ∧ s.st = .awaitingChecksum ∧ digit b s = .next t := by
  cases i with
  | dpop | dpush | dclose | take => cases hi
  | bStart | eoc | abort =>
    obtain rfl := next_inj (inSubmission_hold hf h ht)
    cases ht
  | soc =>
    obtain ⟨fault, _⟩ | ⟨_, _, rfl⟩ | ⟨_, _, _, rfl⟩ | ⟨_, _, _, rfl⟩ := execSoc_cases h
    · exact absurd hf fault
    all_goals cases ht
  | close =>
    obtain ⟨fault, _⟩ | ⟨_, _, rfl⟩ | ⟨_, _, _, rfl⟩ | ⟨_, _, _, rfl⟩ := execClose_cases h
    · exact absurd hf fault
    all_goals cases ht
  | bStar =>
    obtain ⟨fault, _⟩ | ⟨_, _, rfl⟩ | ⟨_, opened, ⟨_, rfl⟩ | ⟨_, rfl⟩ | ⟨st, hd⟩⟩ := execBStar_cases h
    case inr.inr.inr.inr => exact ⟨starByte, .inr ⟨rfl, rfl⟩, opened, st, hd⟩
    · exact absurd hf fault
    all_goals cases ht
  | bOther b =>
    obtain ⟨fault, _⟩ | ⟨_, _, rfl⟩ | ⟨_, opened, ⟨_, rfl⟩ | ⟨_, rfl⟩ | ⟨st, hd⟩⟩ := execBOther_cases h
    case inr.inr.inr.inr => exact ⟨b, .inl rfl, opened, st, hd⟩
    · exact absurd hf fault
    all_goals cases ht

/-- Settles O29: P is held as a checksum byte, whose hold is the full RAWQ, and `'*'` never completes a frame; the converse
is a clause of O13. -/
theorem producerHeldOnlyByFullRawq : Obligations.ProducerHeldOnlyByFullRawq := by
  intro i s t hi hf h
  constructor
  · intro ht
    obtain ⟨b, byte, opened, st, hd⟩ := producer_hold hi hf h ht
    obtain ⟨c0, dbuf, yes, notClosed, full⟩ := digit_hold hd ht
    exact ⟨b, c0, bOther_of_verdict byte yes, opened, st, dbuf, yes, notClosed, full⟩
  · rintro ⟨b, c0, rfl, opened, st, dbuf, yes, notClosed, full⟩
    obtain ⟨_, held, _⟩ := matchingFrameIsEmitted s b c0 hf opened st dbuf yes
    rw [next_inj ((held notClosed full).symm.trans h)]

/-! ## The phases -/

theorem closing_le_phaseOf {s : State} (raw : s.rawqClosed = true) : Phase.closing.rank ≤ (phaseOf s).rank := by
  simp only [phaseOf, raw, Bool.true_eq_false, if_false]
  split_ifs <;> decide

theorem flushing_le_phaseOf {s : State} (raw : s.rawqClosed = true) (out : s.outqClosed = true) :
    Phase.flushing.rank ≤ (phaseOf s).rank := by
  simp only [phaseOf, raw, out, Bool.true_eq_false, if_false]
  split_ifs <;> decide

theorem done_le_phaseOf {s : State} (raw : s.rawqClosed = true) (out : s.outqClosed = true) (empty : s.outq = []) :
    Phase.done.rank ≤ (phaseOf s).rank := by
  simp only [phaseOf, raw, out, empty, List.isEmpty_nil, Bool.true_eq_false, if_false]
  split_ifs <;> decide

theorem phaseOf_of_fault {s : State} (hf : s.fault ≠ .noFault) : phaseOf s = .fatal := if_pos hf

/-- What never goes back in a run keeps the phase from going back (R192). -/
theorem rank_le_rank {s t : State} (fault : s.fault ≠ .noFault → t.fault ≠ .noFault)
    (raw : s.rawqClosed = true → t.rawqClosed = true) (out : s.outqClosed = true → t.outqClosed = true)
    (empty : s.outqClosed = true → s.outq = [] → t.outq = []) : (phaseOf s).rank ≤ (phaseOf t).rank := by
  fun_cases phaseOf s with
  | case1 hf => rw [phaseOf_of_fault (fault hf)]
  | case2 => exact Nat.zero_le _
  | case3 _ hr => exact closing_le_phaseOf (raw (by simpa using hr))
  | case4 _ hr ho => exact flushing_le_phaseOf (raw (by simpa using hr)) (out (by simpa using ho))
  | case5 _ hr ho he =>
    have closed : s.outqClosed = true := by simpa using ho
    exact done_le_phaseOf (raw (by simpa using hr)) (out closed) (empty closed (by simpa using he))

/-- Behind a closed and empty OUTQ no Sentence is left to deliver (R53), so OUTQ stays empty. -/
theorem effect_outq_drained {i : Instr} {s t : State} (e : Effect i s t) (free : s.decHold = none)
    (empty : s.outq = []) : t.outq = [] := by
  cases e with
  | dpush _ _ _ has => simp [free] at has
  | take _ _ _ _ head => simp [empty] at head
  | soc | eoc | abort => simpa using empty
  | _ => exact empty

/-- Settles O41: closed bits and a fault stay, and OUTQ once closed and empty stays empty. -/
theorem phasesNeverGoBack : Obligations.PhasesNeverGoBack := by
  intro s t hc h
  obtain ⟨_, raw, out, fault⟩ := stepNeverReopens s t h
  refine rank_le_rank (fun hf => by rwa [fault hf]) raw out fun closed empty => ?_
  obtain ⟨_, _, free⟩ := hc.1 closed
  obtain rfl | ⟨w, i, u, e, rfl⟩ := step_effect h
  · exact empty
  · rw [consumeWord_outq]
    exact effect_outq_drained e free empty

/-! ## The end of a run -/

theorem isDone_iff (s : State) : isDone s = true ↔
    s.rawqClosed = true ∧ s.rawq = [] ∧ s.decHold = none ∧ s.outqClosed = true ∧ s.outq = [] ∧ s.subOpen = false ∧
      s.fault = .noFault := by
  simp [isDone, and_assoc]

/-- In `Done` a step taken is `TAKE`: every other effect needs an open queue, an open submission or an entry. -/
theorem eq_take_of_isDone {i : Instr} {s t : State} (hd : isDone s = true) (e : Effect i s t)
    (ht : taken t.out = true) : i = .take := by
  obtain ⟨rawClosed, rawEmpty, free, outClosed, outEmpty, notOpen, _⟩ := (isDone_iff s).mp hd
  cases e with
  | hold | fatal => cases ht
  | take | eos => rfl
  | dpop _ _ _ _ _ head => simp [rawEmpty] at head
  | dpush _ _ _ has => simp [free] at has
  | dclose _ _ _ notClosed => simp [outClosed] at notClosed
  | soc _ _ notClosed | close _ _ _ notClosed => simp [rawClosed] at notClosed
  | _ => exact absurd ‹s.subOpen = true› (by simp [notOpen])

/-- Settles O42: `TAKE` has the effect `eos`, and no other operation takes a step. -/
theorem doneOnlyTakesEos : Obligations.DoneOnlyTakesEos := by
  intro i s t hd h
  have eos (hi : i = .take) : t = { s with out := .eos } := by
    obtain ⟨_, _, _, outClosed, outEmpty, _, run⟩ := (isDone_iff s).mp hd
    subst hi
    exact next_inj ((exec_of_taken (.eos s run outEmpty outClosed) rfl).symm.trans h)
  exact ⟨⟨eq_take_of_isDone hd (exec_effect h), fun hi => by rw [eos hi]; rfl⟩, eos⟩

end Sys2Proof.Machine
end

section
/-! PROOFS. Fatal faults: what raising one writes, that one standing stops every agent, reserved words of the P port,
and the ready line of that port (R92, R102, R219, R220). -/

namespace Sys2Proof.Machine

/-! ## What an operation writes of the inputs and of the fault -/

section Inputs

variable {i : Instr} {s t : State}

/-- The words waiting and the turns laid down are written by turns alone, by no operation (log entry 3). -/
theorem effect_inputs (e : Effect i s t) : t.pport = s.pport ∧ t.sched = s.sched ∧ t.turns = s.turns := by
  cases e with
  | soc | eoc | abort => simp
  | _ => exact ⟨rfl, rfl, rfl⟩

theorem effect_fault_of_not_fatal (e : Effect i s t) (ht : ∀ c, t.out ≠ .fatal c) : t.fault = s.fault := by
  cases e with
  | fatal _ _ c => exact absurd rfl (ht c)
  | soc | eoc | abort => simp
  | _ => rfl

end Inputs

/-- Settles O36, register by register. -/
theorem frameOfInputsAndFault : Obligations.FrameOfInputsAndFault := by
  intro i s t h
  have e := exec_effect h
  obtain ⟨pport, sched, turns⟩ := effect_inputs e
  exact ⟨effect_params e, pport, sched, turns, effect_fault_of_not_fatal e⟩

/-- Settles O28: among the effects only `fatal` shows a fatal outcome. -/
theorem fatalEntryWritesOnlyFault : Obligations.FatalEntryWritesOnlyFault := by
  intro i s t c h ht
  cases exec_effect h with
  | fatal _ _ _ run code => cases ht; exact ⟨run, code, rfl⟩
  | _ => cases ht

/-! ## A fault that stands -/

/-- Settles O25: every operation answers a next state, and under a fault its one effect is the hold. -/
theorem fatalStopsEveryAgent : Obligations.FatalStopsEveryAgent := by
  intro i s hf
  rw [exec_eq_doOp, effect_eq_of_fault (doOp_effect i s) hf]

/-- A held word stays on the P port (R15). -/
theorem consumeWord_of_hold {t : State} (w : EventWord) (ht : t.out = .hold) : consumeWord w t = t :=
  if_neg fun leaves => leaves.2 ht

/-- Settles O26: a turn of P may be idle; else what is tried is held, and its word stays. -/
theorem fatalStepKeepsEverything : Obligations.FatalStepKeepsEverything := by
  intro s t hf h
  obtain rfl | ⟨w, i, u, e, rfl⟩ := step_effect h
  · rfl
  · obtain rfl := effect_eq_of_fault e hf
    rw [consumeWord_of_hold w rfl]
    rfl

/-! ## Reserved words of the P port (R92 a) -/

/-- On a turn of P the word presented is tried (R86, R102). -/
theorem fetchWord_of_presented {s : State} {l : PortWord} (turn : nextTurn s = .p) (head : s.pport.head? = some l) :
    fetchWord s = some (eventWord Agent.p.code l) := by
  obtain ⟨rest, hq⟩ := List.head?_eq_some_iff.mp head
  simp only [fetchWord, turn, hq]
  rfl

/-- A P-port word whose step was not held leaves the port (R15, R102). -/
theorem consumeWord_of_not_hold {t : State} (l : PortWord) (ht : t.out ≠ .hold) :
    consumeWord (eventWord Agent.p.code l) t = { t with pport := t.pport.tail } :=
  if_pos ⟨agentField_eventWord _ l, ht⟩

/-- Without a fault a reserved word raises one (R92 a). -/
theorem illegalWord_running {s : State} (hf : s.fault = .noFault) : illegalWord s = raiseFatal .illegalWord s :=
  live_running _ hf

/-- A turn whose word decodes to a reserved one is settled as that (R92 a). -/
theorem step_of_illegal {s : State} {w : EventWord} (hw : fetchWord s = some w)
    (hd : decode w = .illegalPortWord) : step s = settle w (illegalWord (takeTurn s)) := by
  simp only [step, hw, hd]

/-- Settles O6: the word presented is fetched and decoded as reserved, its fault raised, and the word consumed. -/
theorem reservedPortWordIsFatal : Obligations.ReservedPortWordIsFatal := by
  intro s l turn head illegal hf
  have fetched := fetchWord_of_presented turn head
  have raised : illegalWord (takeTurn s) = raiseFatal .illegalWord (takeTurn s) := illegalWord_running hf
  rw [step_of_illegal fetched ((decode_p l).trans illegal), raised, raiseFatal_eq, settle_next]
  exact congrArg Host.Outcome.next (consumeWord_of_not_hold l nofun)

/-! ## The ready line of the P port (R102) -/

/-- The data bytes of class OTHER are the words of `B.OTHER` (R88). -/
theorem eq_bOther_iff_carriesOther {l : PortWord} {i : Instr} (h : decodeP l = .instr i) (b : Byte) :
    i = .bOther b ↔ carriesOther l = true ∧ dataField l = b := by
  constructor
  · rintro rfl
    obtain ⟨_, rfl, hwf⟩ := carries_of_decodeP h
    obtain ⟨hd, hs⟩ := wf_bOther_iff.mp hwf
    simp [carriesOther, encodeLow, classOf, hd, hs]
  · rintro ⟨hc, rfl⟩
    obtain ⟨op, cls⟩ : opField l = 0b00#2 ∧ classOf (dataField l) = .other := by simpa [carriesOther] using hc
    simpa [decodeP, op, Instr.ofByte, cls, eq_comm] using h

/-- When a byte is held (R189). -/
theorem holdsByte_iff (s : State) (b : Byte) :
    holdsByte s b = true ↔
      completesFrame s b = true ∧ s.rawqClosed = false ∧ s.rawq.length = s.params.qcapRaw := by
  simp [holdsByte, rawFull, and_assoc]

theorem pReady_stopped {s : State} (l : PortWord) (hf : s.fault ≠ .noFault) : pReady s l = false := by
  simp [pReady, isFatal, hf]

theorem pReady_running {s : State} (l : PortWord) (hf : s.fault = .noFault) :
    pReady s l = false ↔ carriesOther l = true ∧ holdsByte s (dataField l) = true := by
  simp [pReady, isFatal, hf]

/-- Settles O30: under a fault both sides hold; without one both say that the word is the byte of O29. -/
theorem portReadyIsNoHold : Obligations.PortReadyIsNoHold := by
  intro l i s t hd h
  by_cases hf : s.fault = .noFault
  · obtain ⟨agent, _⟩ := carries_of_decodeP hd
    rw [producerHeldOnlyByFullRawq i s t agent hf h, pReady_running l hf, holdsByte_iff, completesFrame_iff]
    constructor
    · rintro ⟨b, c0, hi, opened, st, dbuf, yes, notClosed, full⟩
      obtain ⟨other, rfl⟩ := (eq_bOther_iff_carriesOther hd b).mp hi
      exact ⟨other, ⟨opened, st, c0, dbuf, yes⟩, notClosed, full⟩
    · rintro ⟨other, ⟨opened, st, c0, dbuf, yes⟩, notClosed, full⟩
      exact ⟨_, c0, (eq_bOther_iff_carriesOther hd _).mpr ⟨other, rfl⟩, opened, st, dbuf, yes, notClosed, full⟩
  · have held : t = { s with out := .hold } := effect_eq_of_fault (exec_effect h) hf
    simp [held, pReady_stopped l hf]

end Sys2Proof.Machine
end

section
/-! PROOFS. The invariants of R48 to R53: they hold at reset, each effect of a well-formed operation keeps them, and so
does every step. -/

namespace Sys2Proof.Machine

/-! ## The parser (R31, R48 to R50) -/

/-- The parser's registers as R31 and R48 to R50 have them. -/
structure ParserSound (s : State) : Prop extends Gathered s where
  idle : idleClear s
  placed : digitsPlaced s

/-- A parser that is cleared, as reset and `FORCE_IDLE` leave it. -/
theorem parserSound_of_clear {s : State} (pay : s.pay = []) (xacc : s.xacc = 0x00#8) (dbuf : s.dbuf = none) :
    ParserSound s where
  acc := by rw [xacc, pay, xof_nil]
  clean := by rw [pay]; rfl
  limit := by rw [pay]; exact withinLimit_zero _
  idle _ := ⟨pay, xacc, dbuf⟩
  placed _ := dbuf

/-- The ends of a submission clear the parser or leave it (R180 to R182). -/
theorem parserSound_chunkEnd {s : State} (h : ParserSound s) (opened : Bool) (n : Nat) (o : StepOut) :
    ParserSound { chunkEnd { s with subOpen := opened, vcnt := n } with out := o } := by
  unfold chunkEnd
  split
  · exact parserSound_of_clear rfl rfl rfl
  · exact ⟨⟨h.acc, h.clean, h.limit⟩, h.idle, h.placed⟩

/-- One more byte of class OTHER with room for it (R125). -/
theorem gathered_append {b : Byte} {s : State} (h : Gathered s) (plain : plainByte b = true)
    (room : payHasRoom s = true) :
    Gathered { s with pay := s.pay ++ [b], xacc := xstep s.xacc b, out := .done } where
  acc := by rw [xof_snoc, ← h.acc]
  clean := by
    rw [markerFree, List.all_append]
    exact Bool.and_eq_true_iff.mpr ⟨h.clean, by simpa using plain⟩
  limit := by
    rw [List.length_append]
    exact (withinLimit_succ _ _).trans room

/-- Only a `B.OTHER` that carries a marker, which no word spells (R88), could break the parser. -/
theorem effect_keeps_parserSound {i : Instr} {s t : State} (e : Effect i s t) (wf : i.wf = true)
    (h : ParserSound s) : ParserSound t := by
  cases e with
  | restart | overflow | mismatch | emit => exact parserSound_of_clear rfl rfl rfl
  | starMark => exact ⟨⟨h.acc, h.clean, h.limit⟩, nofun, nofun⟩
  | payload b _ _ _ st room =>
    have plain : plainByte b = true := plainByte_iff.mpr (wf_bOther_iff.mp wf)
    exact ⟨gathered_append h.toGathered plain room, fun idle => by simp [st] at idle, h.placed⟩
  | firstDigit _ b _ _ _ _ st =>
    exact ⟨⟨h.acc, h.clean, h.limit⟩, fun idle => by simp [st] at idle, fun cap => by simp [st] at cap⟩
  | soc | eoc | abort => exact parserSound_chunkEnd h _ _ _
  | _ => exact ⟨⟨h.acc, h.clean, h.limit⟩, h.idle, h.placed⟩

/-- R51: with `CHUNK_RESET` a submission ends in Idle, and outside one no byte is taken. -/
theorem effect_keeps_idleBetweenChunks {i : Instr} {s t : State} (e : Effect i s t) (h : idleBetweenChunks s) :
    idleBetweenChunks t := by
  cases e with
  | restart _ _ opened | starMark _ _ opened => exact fun _ notOpen => absurd (opened.symm.trans notOpen) nofun
  | overflow | mismatch | emit => exact fun _ _ => rfl
  | soc => exact fun _ notOpen => by simp at notOpen
  | eoc | abort => exact fun reset _ => chunkEnd_st_idle (.inl (by simpa using reset))
  | _ => exact h

/-! ## The queues (R52, R53) -/

theorem effect_keeps_withinCapacity {i : Instr} {s t : State} (e : Effect i s t) (h : withinCapacity s) :
    withinCapacity t := by
  obtain ⟨raw, out⟩ := h
  cases e with
  | emit _ _ _ _ _ _ _ _ _ _ _ room => exact ⟨by simpa using lt_of_le_of_ne raw room, out⟩
  | dpop _ _ _ _ _ head => exact ⟨Nat.le_of_succ_le (by simpa [head] using raw), out⟩
  | dpush _ _ _ _ room => exact ⟨raw, by simpa using room⟩
  | take _ _ _ _ head => exact ⟨raw, Nat.le_of_succ_le (by simpa [head] using out)⟩
  | soc | eoc | abort => simpa [withinCapacity] using ⟨raw, out⟩
  | _ => exact ⟨raw, out⟩

/-- R52, what RAWQ, D and OUTQ hold. -/
structure HoldsPayloads (s : State) : Prop where
  raw : ∀ e ∈ s.rawq, payloadOk s.params e
  hold : ∀ x, s.decHold = some x → ∃ e, x = dec e ∧ payloadOk s.params e
  out : ∀ x ∈ s.outq, ∃ e, x = dec e ∧ payloadOk s.params e

theorem effect_keeps_holdsPayloads {i : Instr} {s t : State} (e : Effect i s t) (g : Gathered s)
    (h : HoldsPayloads s) : HoldsPayloads t := by
  obtain ⟨raw, hold, out⟩ := h
  cases e with
  | emit =>
    exact ⟨List.forall_mem_append.mpr ⟨raw, List.forall_mem_singleton.mpr ⟨g.clean, g.limit⟩⟩, hold, out⟩
  | dpop _ e r _ _ head =>
    rw [head] at raw
    obtain ⟨first, rest⟩ := List.forall_mem_cons.mp raw
    exact ⟨rest, fun x hx => ⟨e, (Option.some.inj hx).symm, first⟩, out⟩
  | dpush _ x _ has =>
    exact ⟨raw, nofun, List.forall_mem_append.mpr ⟨out, List.forall_mem_singleton.mpr (hold x has)⟩⟩
  | take _ x r _ head =>
    rw [head] at out
    exact ⟨raw, hold, (List.forall_mem_cons.mp out).2⟩
  | soc | eoc | abort => exact ⟨by simpa using raw, by simpa using hold, by simpa using out⟩
  | _ => exact ⟨raw, hold, out⟩

theorem effect_keeps_closureOrdered {i : Instr} {s t : State} (e : Effect i s t) (h : closureOrdered s) :
    closureOrdered t := by
  obtain ⟨behind, ended⟩ := h
  cases e with
  | fatal _ _ _ _ code => exact ⟨behind, fun _ => .inr code⟩
  | emit _ _ _ _ _ _ _ _ _ _ notClosed =>
    exact ⟨fun closed => absurd (notClosed.symm.trans (behind closed).1) nofun, ended⟩
  | soc _ _ notClosed =>
    exact ⟨by simpa using behind, fun closed => by simp [notClosed] at closed⟩
  | eoc | abort => exact ⟨by simpa using behind, fun _ => .inl (by simp)⟩
  | close _ _ notOpen => exact ⟨fun closed => ⟨rfl, (behind closed).2⟩, fun _ => .inl notOpen⟩
  | dpop _ _ _ _ _ head => exact ⟨fun closed => absurd (head.symm.trans (behind closed).2.1) nofun, ended⟩
  | dpush => exact ⟨fun closed => ⟨(behind closed).1, (behind closed).2.1, rfl⟩, ended⟩
  | dclose _ _ free _ empty closed => exact ⟨fun _ => ⟨closed, empty, free⟩, ended⟩
  | _ => exact ⟨behind, ended⟩

/-! ## The count (R34) -/

theorem countFits_iff (s : State) : countFits s ↔ ∀ w, s.params.countW = .fin w → s.vcnt < 2 ^ w := by
  unfold countFits
  cases s.params.countW <;> simp

theorem countUp_lt {p : Params} {w : Nat} (h : p.countW = .fin w) (n : Nat) : countUp p n < 2 ^ w := by
  simp only [countUp, h]
  exact Nat.mod_lt _ (Nat.two_pow_pos w)

theorem effect_keeps_countFits {i : Instr} {s t : State} (e : Effect i s t) (h : countFits s) : countFits t := by
  cases e with
  | emit => exact (countFits_iff _).mpr fun w hw => countUp_lt hw _
  | soc => exact (countFits_iff _).mpr fun w _ => by simp
  | eoc | abort => simpa [countFits] using h
  | _ => exact h

/-! ## Every step -/

/-- The invariants, the payload's bound with the parser and not with the queues' contents. -/
theorem invariants_iff (s : State) : Invariants s ↔
    ParserSound s ∧ idleBetweenChunks s ∧ withinCapacity s ∧ HoldsPayloads s ∧ closureOrdered s ∧ countFits s := by
  constructor
  · rintro ⟨idle, ⟨acc, clean⟩, placed, between, capacity, ⟨limit, raw, hold, out⟩, closure, count⟩
    exact ⟨⟨⟨acc, clean, limit⟩, idle, placed⟩, between, capacity, ⟨raw, hold, out⟩, closure, count⟩
  · rintro ⟨parser, between, capacity, ⟨raw, hold, out⟩, closure, count⟩
    exact ⟨parser.idle, ⟨parser.acc, parser.clean⟩, parser.placed, between, capacity, ⟨parser.limit, raw, hold, out⟩,
      closure, count⟩

theorem effect_keeps_invariants {i : Instr} {s t : State} (e : Effect i s t) (wf : i.wf = true)
    (h : Invariants s) : Invariants t := by
  rw [invariants_iff] at h ⊢
  obtain ⟨parser, between, capacity, holds, closure, count⟩ := h
  exact ⟨effect_keeps_parserSound e wf parser, effect_keeps_idleBetweenChunks e between,
    effect_keeps_withinCapacity e capacity, effect_keeps_holdsPayloads e parser.toGathered holds,
    effect_keeps_closureOrdered e closure, effect_keeps_countFits e count⟩

/-- The invariants say nothing of the words waiting at the P port. -/
theorem invariants_consumeWord (w : EventWord) {s : State} (h : Invariants s) : Invariants (consumeWord w s) := by
  unfold consumeWord
  split <;> exact h

/-- What a turn tries is a well-formed operation, since it was decoded from a word (R88 to R91). -/
theorem step_wf_effect {s t : State} (h : step s = .next t) :
    t = { takeTurn s with out := .idle } ∨
      ∃ w i u, Effect i (takeTurn s) u ∧ i.wf = true ∧ t = consumeWord w u := by
  obtain ⟨_, rfl⟩ | ⟨w, i, u, _, hd, hu, rfl⟩ | ⟨w, u, _, _, hu, rfl⟩ := step_cases h
  · exact .inl rfl
  · exact .inr ⟨w, i, u, exec_effect hu, (encodeOfDecode w i hd).2, rfl⟩
  · exact .inr ⟨w, .close, u, illegalWord_effect hu rfl, rfl, rfl⟩

/-- Settles O39: an idle turn writes no register, and the effect of a decoded operation keeps each invariant. -/
theorem stepKeepsInvariants : Obligations.StepKeepsInvariants := by
  intro s t h hstep
  obtain rfl | ⟨w, i, u, e, wf, rfl⟩ := step_wf_effect hstep
  · exact h
  · exact invariants_consumeWord w (effect_keeps_invariants (s := takeTurn s) e wf h)

/-- Settles O38: the parser is cleared, the queues are empty and nothing is closed. -/
theorem invariantsAtReset : Obligations.InvariantsAtReset := by
  intro p
  rw [invariants_iff]
  refine ⟨parserSound_of_clear rfl rfl rfl, fun _ _ => rfl, ⟨Nat.zero_le _, Nat.zero_le _⟩, ⟨nofun, nofun, nofun⟩,
    ⟨nofun, nofun⟩, ?_⟩
  exact (countFits_iff _).mpr fun w _ => Nat.two_pow_pos w

/-- Settles O37: creation is the table of R54, written out. -/
theorem resetValues : Obligations.ResetValues :=
  ⟨fun _ => ⟨rfl, rfl, rfl, rfl, rfl, rfl, rfl, rfl, rfl, rfl, rfl, rfl, rfl⟩, rfl⟩

/-- Settles O43: each queue is within its capacity, and D holds one Sentence at most. -/
theorem inFlightIsBounded : Obligations.InFlightIsBounded := by
  intro s ⟨raw, out⟩
  have hold : s.decHold.toList.length ≤ 1 := by cases s.decHold <;> simp
  simp only [inFlight, List.length_append, List.length_map]
  omega

end Sys2Proof.Machine
end

section
/-! PROOFS. Two submissions in a row: with `CHUNK_RESET` each chunk yields its own frames, without it the parser goes on
where the first chunk ended (R135). -/

namespace Sys2Proof.Machine

/-! ## Later bytes complete more frames -/

/-- An occurrence stays one whatever bytes follow (R133). -/
theorem frameAt_append {q : Params} {c e : ByteString} (d : ByteString) (h : frameAt q c = some e) :
    frameAt q (c ++ d) = some e := by
  cases c with
  | nil => cases h
  | cons b r =>
    obtain rfl : b = dollarByte := by
      by_contra hb
      simp [frameAt, hb] at h
    have clean : markerFree (r.takeWhile plainByte) = true := List.all_takeWhile
    have parts := List.takeWhile_append_dropWhile (p := plainByte) (l := r)
    have first := List.head?_dropWhile_not plainByte r
    cases ends : r.dropWhile plainByte with
    | nil => simp [frameAt, ends] at h
    | cons m rest =>
      have marker : plainByte m = false := by simpa [ends] using first
      rw [ends] at parts
      rw [← parts, frameAt_eq_some_iff q rest e clean marker] at h
      obtain ⟨he, star, limit, c0, c1, more, rfl, ok⟩ := h
      rw [← parts, List.cons_append, List.append_assoc, List.cons_append,
        frameAt_eq_some_iff q _ e clean marker]
      exact ⟨he, star, limit, c0, c1, more ++ d, rfl, ok⟩

/-- So a longer chunk yields the frames of the shorter one, and perhaps more. -/
theorem framesIn_sublist_append (q : Params) (c d : ByteString) : (framesIn q c).Sublist (framesIn q (c ++ d)) := by
  induction c with
  | nil => exact List.nil_sublist _
  | cons b r ih =>
    rw [framesIn_cons, List.cons_append, framesIn_cons]
    refine List.Sublist.append ?_ ih
    cases h : frameAt q (b :: r) with
    | none => exact List.nil_sublist _
    | some e =>
      have kept : frameAt q (b :: (r ++ d)) = some e := frameAt_append d h
      rw [kept]

/-! ## What runs keep -/

theorem runOps_params (is : List Instr) (s : State) : (runOps is s).params = s.params := by
  induction is generalizing s with
  | nil => rfl
  | cons i is ih => rw [runOps_cons, ih, effect_params (doOp_effect i s)]

/-! ## The boundary without `CHUNK_RESET` -/

/-- A submission counted anew: what `EOC` and the next `SOC` make of `s` when the parser goes on. -/
def recounted (s : State) : State := { s with vcnt := 0, out := .done }

/-- `EOC` and the next `SOC` write the count and the output alone (R180, R181). -/
theorem soc_after_eoc_keep {s : State} (hs : Reading s) (keep : s.params.chunkReset = false) :
    doOp .soc (doOp .eoc s) = recounted s := by
  obtain ⟨_, _, eoc⟩ := eocReturnsCount s hs.run
  have ended := next_inj ((eoc hs.opened keep).symm.trans (exec_eq_doOp .eoc s))
  obtain ⟨_, _, _, soc⟩ := socOpensSubmission (doOp .eoc s) (by rw [ended]; exact hs.run)
  rw [ended] at soc ⊢
  rw [next_inj ((soc hs.notClosed rfl keep).symm.trans (exec_eq_doOp .soc _)), ← hs.opened]
  rfl

theorem reading_recounted {s : State} (h : Reading s) : Reading (recounted s) := ⟨h.run, h.opened, h.notClosed⟩

/-- What is pending does not depend on the count or the output. -/
theorem pending_recounted {s : State} {w : ByteString} (h : Pending s w) : Pending (recounted s) w := by
  have gathered (g : Gathered s) : Gathered (recounted s) := ⟨g.acc, g.clean, g.limit⟩
  cases h with
  | idle st => exact .idle st
  | payload st dbuf g => exact .payload (s := recounted s) st dbuf (gathered g)
  | star st dbuf g => exact .star (s := recounted s) st dbuf (gathered g)
  | digit c0 st dbuf h0 g => exact .digit (s := recounted s) c0 st dbuf h0 (gathered g)

theorem rawq_eoc (s : State) : (doOp .eoc s).rawq = s.rawq := effect_rawq (doOp_effect .eoc s) nofun nofun

theorem runOps_submit_submit (c1 c2 : ByteString) (s : State) :
    runOps (submit c1 ++ submit c2) s =
      doOp .eoc (runOps (dataOps c2) (doOp .soc (doOp .eoc (runOps (dataOps c1) (doOp .soc s))))) := by
  rw [runOps_append, runOps_submit, runOps_submit]

/-- The second chunk is read from what the first one left pending. -/
theorem rawq_of_joined_chunks {c1 c2 : ByteString} {s : State} (run : s.fault = .noFault) (notOpen : s.subOpen = false)
    (notClosed : s.rawqClosed = false) (keep : s.params.chunkReset = false) (st : s.st = .idle)
    (room : s.rawq.length + (framesIn s.params (c1 ++ c2)).length ≤ s.params.qcapRaw) :
    (runOps (submit c1 ++ submit c2) s).rawq = s.rawq ++ framesIn s.params (c1 ++ c2) := by
  have soc := soc_received run notClosed notOpen
  have shorter := (framesIn_sublist_append s.params c1 c2).length_le
  obtain ⟨add, w, first⟩ := reads_bytes c1 (soc.reading ⟨run, rfl, notClosed⟩)
    (soc_pending run notClosed notOpen (.inr st)) (by simp [soc.params, soc.rawq]; omega)
  have whole : framesIn s.params (c1 ++ c2) = add ++ framesIn s.params (w ++ c2) := by
    simpa [soc.params] using first.frames c2
  have got := soc.trans first.received
  have reading := got.reading ⟨run, rfl, notClosed⟩
  rw [runOps_submit_submit, rawq_eoc, soc_after_eoc_keep reading (by rw [got.params]; exact keep)]
  have rawq : (recounted (runOps (dataOps c1) (doOp .soc s))).rawq = s.rawq ++ add := got.rawq
  have params : (recounted (runOps (dataOps c1) (doOp .soc s))).params = s.params := got.params
  rw [whole, List.length_append] at room
  obtain ⟨more, _, second⟩ := reads_bytes c2 (reading_recounted reading) (pending_recounted first.pending)
    (by rw [rawq, params, List.length_append]; omega)
  rw [second.received.rawq, second.emitted, rawq, params, whole, List.append_assoc]

/-- Settles O51: with `CHUNK_RESET` O50 twice, without it the two chunks are read as one. -/
theorem chunkBoundaries : Obligations.ChunkBoundaries := by
  intro c1 c2 s run notOpen notClosed
  refine ⟨fun reset room => ?_, rawq_of_joined_chunks run notOpen notClosed⟩
  rw [List.length_append] at room
  obtain ⟨rawq, _, run', notOpen', notClosed', _⟩ :=
    submissionYieldsItsFrames c1 s run notOpen notClosed (.inl reset) (by omega)
  have params := runOps_params (submit c1) s
  obtain ⟨rawq', _⟩ := submissionYieldsItsFrames c2 (runOps (submit c1) s) run' notOpen' notClosed'
    (.inl (by rw [params, reset])) (by rw [params, rawq, List.length_append]; omega)
  rw [runOps_append, rawq', rawq, params, List.append_assoc]

end Sys2Proof.Machine
end

section
/-! PROOFS. When each operation's step is taken: the table of R191 and its one D step (R190), turns that spell no
operation or that nobody laid down (R18, R92), the star (R123), and the checksum fed back (R118). -/

namespace Sys2Proof.Machine

/-! ## Every operation answers -/

/-- Settles O24: no meaning faults or refuses. -/
theorem everyOperationAnswersNext : Obligations.EveryOperationAnswersNext := exec_next

/-! ## The one step of the decode task (R190) -/

/-- A step of D that is taken is the one its loop can take. -/
theorem encodeLow_eq_ownLabel {i : Instr} {s t : State} (e : Effect i s t) (hi : i.agent = .d)
    (ht : t.out ≠ .hold) : encodeLow i = ownLabel s := by
  obtain rfl | ⟨p, r, rfl, _, free, head, _⟩ | ⟨x, rfl, _, has, _⟩ | ⟨rfl, _, free, _, empty, _⟩ | ⟨_, _, rfl, _⟩ |
    ⟨rfl, _⟩ := downstream_cases e (by simp [hi])
  · exact absurd rfl ht
  · simp [ownLabel, free, head]
  · simp [ownLabel, has]
  · simp [ownLabel, free, empty]
  · cases hi
  · cases hi

/-- The operations of D are told apart by their labels (R89). -/
theorem decodeD_encodeLow {i : Instr} (hi : i.agent = .d) : decodeD (encodeLow i) = .instr i := by
  cases i with
  | dpop | dpush | dclose => decide
  | _ => cases hi

/-- Settles O31: both operations carry the label that `ownLabel` reads off the state. -/
theorem atMostOneDecodeStep : Obligations.AtMostOneDecodeStep := by
  intro i j s t u hi hj h k ht hu
  have same : encodeLow i = encodeLow j :=
    (encodeLow_eq_ownLabel (exec_effect h) hi ht).trans (encodeLow_eq_ownLabel (exec_effect k) hj hu).symm
  have decoded := decodeD_encodeLow hi
  rw [same, decodeD_encodeLow hj] at decoded
  exact (Decoded.instr.inj decoded).symm

/-! ## The star (R123) -/

/-- Settles O10: one effect for each parser state; a second checksum byte that is a star fails the verdict. -/
theorem starByteEffect : Obligations.StarByteEffect := by
  intro s hf opened
  have byte : digitOp .bStar starByte := .inr ⟨rfl, rfl⟩
  have noFirst (x b : Byte) : verdict s.params x starByte b = false :=
    Bool.eq_false_iff.2 fun yes => absurd (plainByte_of_verdict yes).1 (by decide)
  refine ⟨fun st => ?_, fun st => ?_, fun st dbuf => ?_, fun st c0 dbuf => ?_,
    fun x b => ⟨noFirst x b, verdict_starByte s.params x b⟩⟩
  · exact exec_of_taken (.noise _ ⟨starByte, byte⟩ s hf opened st) rfl
  · exact exec_of_taken (.starMark s hf opened st) rfl
  · exact exec_of_taken (.firstDigit _ starByte byte s hf opened st dbuf) rfl
  · exact exec_of_taken (.mismatch _ starByte c0 byte s hf opened st dbuf (verdict_starByte _ _ _)) rfl

/-! ## The table of R191 -/

/-- The column "otherwise" where it names a fatal fault (R218). -/
theorem exec_of_fatalFor {i : Instr} {s : State} {c : FaultCode} (hf : s.fault = .noFault)
    (h : fatalFor i s = some c) : exec i s = .next { s with fault := c, out := .fatal c } := by
  have gated (hi : i = .bStart ∨ i = .bStar ∨ (∃ b, i = .bOther b) ∨ i = .eoc ∨ i = .abort)
      (h : (if s.subOpen then none else some FaultCode.outsideSubmission) = some c) :
      exec i s = .next { s with fault := c, out := .fatal c } := by
    split_ifs at h with opened
    cases h
    exact outsideSubmissionIsFatal s i hf (by simpa using opened) hi
  cases i with
  | dpop | dpush | dclose | take => cases h
  | bStart | bStar | bOther | eoc | abort => exact gated (by simp) h
  | soc =>
    obtain ⟨closedFault, nestedFault, _⟩ := socOpensSubmission s hf
    simp only [fatalFor] at h
    split_ifs at h with closed opened
    · cases h; exact closedFault closed
    · cases h; exact nestedFault (by simpa using closed) opened
  | close =>
    obtain ⟨openFault, doubleFault, _⟩ := closeClosesRawq s hf
    simp only [fatalFor] at h
    split_ifs at h with opened closed
    · cases h; exact openFault opened
    · cases h; exact doubleFault (by simpa using opened) closed

/-- A data byte of class OTHER or a star, inside a submission and with no hold of R189, is taken in every parser state. -/
theorem digitOp_taken {i : Instr} {b : Byte} {s : State} (byte : digitOp i b) (hs : Reading s)
    (free : holdsByte s b = false) : ∃ t, Effect i s t ∧ taken t.out = true := by
  obtain ⟨run, opened, notClosed⟩ := hs
  obtain st | st | st := parserState_cases s.st
  · exact ⟨_, .noise i ⟨b, byte⟩ s run opened st, rfl⟩
  · obtain rfl | ⟨rfl, _⟩ := byte
    · cases room : payHasRoom s with
      | true => exact ⟨_, .payload b s run opened st room, rfl⟩
      | false => exact ⟨_, .overflow b s run opened st room, rfl⟩
    · exact ⟨_, .starMark s run opened st, rfl⟩
  · cases dbuf : s.dbuf with
    | none => exact ⟨_, .firstDigit i b byte s run opened st dbuf, rfl⟩
    | some c0 =>
      cases v : verdict s.params s.xacc c0 b with
      | false => exact ⟨_, .mismatch i b c0 byte s run opened st dbuf v, rfl⟩
      | true =>
        have room : s.rawq.length ≠ s.params.qcapRaw := fun full => by
          have completes := (completesFrame_iff s b).mpr ⟨opened, st, c0, dbuf, v⟩
          simp [(holdsByte_iff s b).mpr ⟨completes, notClosed, full⟩] at free
        exact ⟨_, .emit i b c0 byte s run opened st dbuf v notClosed room, rfl⟩

theorem holdsByte_star (s : State) : holdsByte s starByte = false := by
  refine Bool.eq_false_iff.2 fun holds => ?_
  obtain ⟨_, _, c0, _, yes⟩ := (completesFrame_iff s starByte).mp ((holdsByte_iff s starByte).mp holds).1
  simp [verdict_starByte] at yes

/-- An open submission has an open RAWQ (R53). -/
theorem reading_of_opened {s : State} (hc : closureOrdered s) (hf : s.fault = .noFault) (opened : s.subOpen = true) :
    Reading s where
  run := hf
  opened := opened
  notClosed := Bool.eq_false_iff.2 fun closed => (hc.2 closed).elim (by simp [opened]) (absurd hf)

/-- The column "enabled when": the step is taken. -/
theorem taken_of_enabledIn {i : Instr} {s : State} (hc : closureOrdered s) (hf : s.fault = .noFault)
    (h : enabledIn i s = true) : ∃ t, Effect i s t ∧ taken t.out = true := by
  cases i with
  | bStart => exact ⟨_, .restart s hf h, rfl⟩
  | eoc => exact ⟨_, .eoc s hf h, rfl⟩
  | abort => exact ⟨_, .abort s hf h, rfl⟩
  | bStar => exact digitOp_taken (.inr ⟨rfl, rfl⟩) (reading_of_opened hc hf h) (holdsByte_star s)
  | bOther b =>
    obtain ⟨opened, free⟩ : s.subOpen = true ∧ holdsByte s b = false := by simpa [enabledIn] using h
    exact digitOp_taken (.inl rfl) (reading_of_opened hc hf opened) free
  | soc =>
    obtain ⟨notClosed, notOpen⟩ : s.rawqClosed = false ∧ s.subOpen = false := by simpa [enabledIn] using h
    exact ⟨_, .soc s hf notClosed notOpen, rfl⟩
  | close =>
    obtain ⟨notOpen, notClosed⟩ : s.subOpen = false ∧ s.rawqClosed = false := by simpa [enabledIn] using h
    exact ⟨_, .close s hf notOpen notClosed, rfl⟩
  | dpop =>
    obtain ⟨free, entry⟩ : s.decHold = none ∧ s.rawq ≠ [] := by simpa [enabledIn] using h
    obtain ⟨e, r, head⟩ := List.exists_cons_of_ne_nil entry
    exact ⟨_, .dpop s e r hf free head, rfl⟩
  | dpush =>
    obtain ⟨has, room⟩ : s.decHold.isSome = true ∧ s.outq.length < s.params.qcapOut := by simpa [enabledIn] using h
    obtain ⟨x, held⟩ := Option.isSome_iff_exists.mp has
    exact ⟨_, .dpush s x hf held room, rfl⟩
  | dclose =>
    obtain ⟨⟨⟨closed, empty⟩, free⟩, notClosed⟩ :
        ((s.rawqClosed = true ∧ s.rawq = []) ∧ s.decHold = none) ∧ s.outqClosed = false := by simpa [enabledIn] using h
    exact ⟨_, .dclose s hf free notClosed empty closed, rfl⟩
  | take =>
    cases out : s.outq with
    | cons x r => exact ⟨_, .take s x r hf out, rfl⟩
    | nil => exact ⟨_, .eos s hf out (by simpa [enabledIn, out] using h), rfl⟩

/-- The column "otherwise" where it names no fatal fault: the step is held. -/
theorem held_of_not_enabledIn {i : Instr} {s : State} (hf : s.fault = .noFault) (noFatal : fatalFor i s = none)
    (h : enabledIn i s = false) : (doOp i s).out = .hold := by
  have answer := exec_eq_doOp i s
  cases i with
  | bStart | bStar | eoc | abort => simp [fatalFor, show s.subOpen = false from h] at noFatal
  | soc | close =>
    simp only [fatalFor] at noFatal
    split_ifs at noFatal with first second
    simp [enabledIn, first, second] at h
  | bOther b =>
    have opened : s.subOpen = true := by simpa [fatalFor] using noFatal
    obtain ⟨completes, notClosed, full⟩ := (holdsByte_iff s b).mp (by simpa [enabledIn, opened] using h)
    obtain ⟨_, st, c0, dbuf, yes⟩ := (completesFrame_iff s b).mp completes
    exact (producerHeldOnlyByFullRawq _ s _ rfl hf answer).mpr ⟨b, c0, rfl, opened, st, dbuf, yes, notClosed, full⟩
  | dpop =>
    have no : s.decHold ≠ none ∨ s.rawq = [] := by
      simpa [-Bool.and_eq_false_imp, Bool.and_eq_false_iff, enabledIn, Option.ne_none_iff_isSome] using h
    rw [next_inj (((dpopDecodesHead s hf).2 no).symm.trans answer)]
  | dpush =>
    have no : s.decHold = none ∨ ¬ s.outq.length < s.params.qcapOut := by
      simpa [-Bool.and_eq_false_imp, Bool.and_eq_false_iff, enabledIn] using h
    rw [next_inj (((dpushDelivers s hf).2 no).symm.trans answer)]
  | dclose =>
    have no : s.rawqClosed = false ∨ s.rawq ≠ [] ∨ s.decHold ≠ none ∨ s.outqClosed = true := by
      simpa [-Bool.and_eq_false_imp, Bool.and_eq_false_iff, enabledIn, Option.ne_none_iff_isSome, or_assoc] using h
    rw [next_inj (((dcloseClosesOutq s hf).2 no).symm.trans answer)]
  | take =>
    obtain ⟨empty, notClosed⟩ : s.outq = [] ∧ s.outqClosed = false := by simpa [enabledIn] using h
    rw [next_inj (((takeReadsOutq s hf).2.2 empty notClosed).symm.trans answer)]

/-- Settles O32, column by column. -/
theorem enablednessTable : Obligations.EnablednessTable := by
  intro i s t hc hf h
  refine ⟨fun c hfatal => by rw [next_inj ((exec_of_fatalFor hf hfatal).symm.trans h)], fun noFatal => ?_⟩
  obtain rfl : t = doOp i s := next_inj ((exec_eq_doOp i s).symm.trans h)
  cases en : enabledIn i s with
  | true =>
    obtain ⟨u, e, ht⟩ := taken_of_enabledIn hc hf en
    rw [doOp_of_taken e ht]
    exact ⟨iff_of_true rfl ht, iff_of_false nofun fun hold => by simp [hold, taken] at ht⟩
  | false =>
    rw [held_of_not_enabledIn hf noFatal en]
    exact ⟨iff_of_false nofun nofun, iff_of_true rfl rfl⟩

/-! ## The checksum fed back (R118) -/

/-- Settles O54: the two characters of the rendering pass in both modes. -/
theorem checksumRoundTrip : Obligations.ChecksumRoundTrip := fun q p => ⟨_, _, rfl, verdict_render q (xof p)⟩

/-! ## Turns -/

/-- Settles O7, by the two branches of `step` that try no operation. -/
theorem turnsWithoutOperation : Obligations.TurnsWithoutOperation := by
  refine ⟨fun s w hw hd => ?_, fun s turn idle => ?_⟩
  · simp only [step, hw, hd]
  · have nothing : fetchWord s = none := by simp only [fetchWord, turn, idle]
    simp only [step, nothing]
    rfl

theorem nextTurn_of_unlaid {s : State} (h : s.sched = []) : nextTurn s = freeTurn s := by
  simp only [nextTurn, h]

/-- The event word of D's own step (R89, R190). -/
theorem eventWord_ownLabel (s : State) :
    eventWord 0b01#2 (ownLabel s) =
      if s.decHold ≠ none then 0x401#12 else if s.rawq = [] then 0x402#12 else 0x400#12 := by
  unfold ownLabel
  cases s.decHold <;> cases s.rawq <;> simp [eventWord, encodeLow]

/-- Settles O8, by the agent the free value names. -/
theorem unlaidTurnIsFree : Obligations.UnlaidTurnIsFree := by
  intro s h
  rw [fetchWord, nextTurn_of_unlaid h, freeTurn]
  cases Config.freeAgent s.turns with
  | p => cases s.pport <;> rfl
  | d => exact congrArg some (eventWord_ownLabel s)
  | k => rfl

end Sys2Proof.Machine
end
